-- ==== Sys2Proof/Word.lean ====
section
/-! DEFINITION. Word: the plain data types that the instruction fields and the state share: bytes, words, blocks, and
the closed sets of names the spec gives (modes, round counts, completion codes). -/

namespace Sys2Proof

/-- One byte, an element of GF(2^8) where the engine uses it (40_aes_engine.md R100). -/
abbrev Byte := BitVec 8

/-- The host register width and the width of a command word (00_scope.md R8). -/
abbrev Word := BitVec 32

/-- A block is the sequence X[0], …, X[15] (00_scope.md R11). -/
abbrev Block := Vector Byte 16

/-- The contents of KEYIN, 32 bytes (10_state.md R21). -/
abbrev KeyBytes := Vector Byte 32

/-- The state element W: W[0] … W[59] (10_state.md R20, R36). -/
abbrev Schedule := Vector Word 60

/-- The address lines inside the 128-byte register window: offsets 0x00 to 0x7F (20_memory.md R50). -/
abbrev Offset := BitVec 7

/-- The block-processing modes (30_encoding.md R74; codes 5 to 7 are no mode). -/
inductive Mode
  | ecb
  | cbc
  | cfb
  | ofb
  | ctr
deriving DecidableEq, Repr

/-- The values of NR: 0 when no key is held, else 10, 12 or 14 rounds (10_state.md R20, R35). -/
inductive Rounds
  | zero
  | ten
  | twelve
  | fourteen
deriving DecidableEq, Repr

/-- The completion codes of STATUS.ERR (60_exceptions.md R201; 7 to 15 are never produced). -/
inductive ErrCode
  | ok
  | keyLen
  | param
  | input
  | dataLen
  | state
  | cmd
deriving DecidableEq, Repr

end Sys2Proof
end

