-- ==== Sys2Proof/Syntax.lean ====
section
/-! DEFINITION. Syntax: the commands of AESKC, one constructor per row of the opcode map (30_encoding.md R78). -/

namespace Sys2Proof

/-- A command, decoded from the 32-bit word the host writes to CMD (30_encoding.md R70, R79). -/
inductive Instr
  /-- NOP (44_control.md R190). -/
  | nop
  /-- INIT with the fields of format I (30_encoding.md R73): `dir` true = encrypt, `lk` a key is given, `li` an IV is
  given, `klen` and `ivlen` their lengths in bytes. -/
  | init (mode : Mode) (dir lk li : Bool) (klen : BitVec 6) (ivlen : BitVec 5)
  /-- UPDATE with COUNT = `n` (43_stream.md R170). -/
  | update (n : BitVec 5)
  /-- FINAL (43_stream.md R172). -/
  | final
  /-- BLOCK with COUNT = `n` (42_modes.md R160). -/
  | block (n : BitVec 5)
  /-- ZEROIZE (44_control.md R191). -/
  | zeroize
  /-- The table's row "(reserved)": any illegal word `w` (44_control.md R192; log 11). -/
  | reserved (w : Word)
deriving DecidableEq, Repr

end Sys2Proof
end

