-- ==== Sys2Proof/WellFormed.lean ====
section
/-! DEFINITION. WellFormed: the opcode map of 30_encoding.md R78 as a list of rows, the legality of a word read off it, and
the checks that make a command term one that some word encodes. -/

namespace Sys2Proof

/-- The "further legality" column of the opcode map. -/
inductive Further
  | always
  | modeAtMost4
  | countAtMost16
deriving DecidableEq, Repr

/-- One row of the opcode map. -/
structure OpcodeRow where
  mnemonic : String
  matchBits : Word
  mask : Word
  further : Further
deriving DecidableEq, Repr

/-- The opcode map, row by row (30_encoding.md R78). -/
def opcodeMap : List OpcodeRow :=
  [ ⟨"NOP",     0x00000000, 0xFFFFFFFF, .always⟩,
    ⟨"INIT",    0x00000001, 0xFFE0000F, .modeAtMost4⟩,
    ⟨"UPDATE",  0x00000002, 0xFFFFFE0F, .countAtMost16⟩,
    ⟨"FINAL",   0x00000003, 0xFFFFFFFF, .always⟩,
    ⟨"BLOCK",   0x00000004, 0xFFFFFE0F, .countAtMost16⟩,
    ⟨"ZEROIZE", 0x00000005, 0xFFFFFFFF, .always⟩ ]

/-- Whether a word meets a row's further-legality condition: MODE = c[6:4], COUNT = c[8:4]. -/
def Further.holds (f : Further) (c : Word) : Bool :=
  match f with
  | .always => true
  | .modeAtMost4 => (c.extractLsb' 4 3).toNat ≤ 4
  | .countAtMost16 => (c.extractLsb' 4 5).toNat ≤ 16

/-- Whether a word is the word of this row. -/
def OpcodeRow.accepts (r : OpcodeRow) (c : Word) : Bool :=
  (c &&& r.mask == r.matchBits) && r.further.holds c

/-- A word is legal exactly when some row accepts it (30_encoding.md R78). -/
def legalWord (c : Word) : Bool :=
  opcodeMap.any fun r => r.accepts c

/-- The terms that some command word encodes: COUNT at most 16, and `reserved` only of an illegal word. INIT's fields
take every value of their bits (30_encoding.md R77, R81). -/
def Instr.wellFormed (i : Instr) : Bool :=
  match i with
  | .nop => true
  | .init _ _ _ _ _ _ => true
  | .update n => n.toNat ≤ 16
  | .final => true
  | .block n => n.toNat ≤ 16
  | .zeroize => true
  | .reserved w => !legalWord w

end Sys2Proof
end

