-- ==== Sys2Proof/Decode.lean ====
section
/-! DEFINITION. Decode: the single decoder of command words (30_encoding.md R79), which names why a word is illegal (R80),
and after it the encoder, from the formats of R71 to R75. -/

namespace Sys2Proof

/-- The code of a mode, in INIT's MODE field and in STATUS.MODE (30_encoding.md R74). -/
def Mode.code (m : Mode) : BitVec 3 :=
  match m with
  | .ecb => 0
  | .cbc => 1
  | .cfb => 2
  | .ofb => 3
  | .ctr => 4

/-- The mode a MODE field names; 5, 6 and 7 name none (30_encoding.md R74). -/
def Mode.ofCode (b : BitVec 3) : Option Mode :=
  match b.toNat with
  | 0 => some .ecb
  | 1 => some .cbc
  | 2 => some .cfb
  | 3 => some .ofb
  | 4 => some .ctr
  | _ => none

/-- A field put at its bits of a word: its bit 0 at bit `lo` (00_scope.md R10). -/
def fieldAt {n : Nat} (lo : Nat) (x : BitVec n) : Word := x.setWidth 32 <<< lo

/-- A one-bit field (00_scope.md R10). -/
def flagAt (lo : Nat) (b : Bool) : Word := fieldAt lo (BitVec.ofBool b)

/-- Why a word is illegal, the four cases of 30_encoding.md R80. Only the fact that a word is illegal is architectural; the
reason is the decoder's name for it. -/
inductive IllegalReason
  | reservedOpcode
  | reservedBits
  | reservedMode
  | countTooLarge
deriving DecidableEq, Repr

/-- Format N: c[31:4] must be 0 (30_encoding.md R71). -/
def decodeN (c : Word) (i : Instr) : Except IllegalReason Instr :=
  if c.extractLsb' 4 28 = 0 then .ok i else .error .reservedBits

/-- Format C: c[31:9] must be 0, COUNT = c[8:4] at most 16 (30_encoding.md R72). -/
def decodeC (c : Word) (mk : BitVec 5 → Instr) : Except IllegalReason Instr :=
  if c.extractLsb' 9 23 = 0 then
    if (c.extractLsb' 4 5).toNat ≤ 16 then .ok (mk (c.extractLsb' 4 5)) else .error .countTooLarge
  else .error .reservedBits

/-- Format I: c[31:21] must be 0, MODE = c[6:4] at most 4 (30_encoding.md R73). -/
def decodeI (c : Word) : Except IllegalReason Instr :=
  if c.extractLsb' 21 11 = 0 then
    match Mode.ofCode (c.extractLsb' 4 3) with
    | some m =>
      .ok (.init m (c.getLsbD 7) (c.getLsbD 8) (c.getLsbD 9) (c.extractLsb' 10 6) (c.extractLsb' 16 5))
    | none => .error .reservedMode
  else .error .reservedBits

/-- The legal command a word encodes, or why there is none; the opcode c[3:0] decides the format (30_encoding.md R79). -/
def decodeCommand (c : Word) : Except IllegalReason Instr :=
  match (c.extractLsb' 0 4).toNat with
  | 0 => decodeN c .nop
  | 1 => decodeI c
  | 2 => decodeC c .update
  | 3 => decodeN c .final
  | 4 => decodeC c .block
  | 5 => decodeN c .zeroize
  | _ => .error .reservedOpcode

/-- The command every 32-bit word stands for: an illegal word is the row "(reserved)" (30_encoding.md R79, R80). -/
def decodeWord (c : Word) : Instr :=
  match decodeCommand c with
  | .ok i => i
  | .error _ => .reserved c

/-- Why a byte image is no command word: a word has exactly four bytes (30_encoding.md R70). -/
inductive DecodeError
  | truncated (have_ : Nat)
deriving DecidableEq, Repr

/-- Four bytes as one word, the first the most significant (the order of 20_memory.md R55; log 12). -/
def wordOfBytes (a b c d : Byte) : Word := fieldAt 24 a ||| fieldAt 16 b ||| fieldAt 8 c ||| fieldAt 0 d

/-- Decoding a byte image: the command of its first four bytes, and the bytes after them. -/
def decodeBytes (bs : List Byte) : Except DecodeError (Instr × List Byte) :=
  match bs with
  | a :: b :: c :: d :: rest => .ok (decodeWord (wordOfBytes a b c d), rest)
  | short => .error (.truncated short.length)

/-- The four bytes of a word, the most significant first (log 12). -/
def bytesOfWord (w : Word) : List Byte :=
  [w.extractLsb' 24 8, w.extractLsb' 16 8, w.extractLsb' 8 8, w.extractLsb' 0 8]

/-- The decoder on an instruction of the opcode table: one word of at most 32 given bits, the bits above them 0. -/
def decodeTableWord (nbits w : Nat) : Option Instr :=
  if nbits ≤ 32 ∧ w < 2 ^ nbits then
    match decodeBytes (bytesOfWord (BitVec.ofNat 32 w)) with
    | .ok (i, _) => some i
    | .error _ => none
  else none

/-- Format N: OPC [3:0], the other bits 0 (30_encoding.md R71). -/
def encodeN (opc : BitVec 4) : Word := fieldAt 0 opc

/-- Format C: COUNT [8:4], OPC [3:0], the other bits 0 (30_encoding.md R72). -/
def encodeC (opc : BitVec 4) (n : BitVec 5) : Word := fieldAt 4 n ||| fieldAt 0 opc

/-- Format I: IVLEN [20:16], KLEN [15:10], LI [9], LK [8], DIR [7], MODE [6:4], OPC [3:0] = 0001, the other bits 0
(30_encoding.md R73; R75 for DIR). -/
def encodeI (mode : Mode) (dir lk li : Bool) (klen : BitVec 6) (ivlen : BitVec 5) : Word :=
  fieldAt 16 ivlen ||| fieldAt 10 klen ||| flagAt 9 li ||| flagAt 8 lk ||| flagAt 7 dir ||| fieldAt 4 mode.code
    ||| fieldAt 0 1#4

/-- The word of a command (30_encoding.md R71 to R78). -/
def encode (i : Instr) : Word :=
  match i with
  | .nop => encodeN 0
  | .init mode dir lk li klen ivlen => encodeI mode dir lk li klen ivlen
  | .update n => encodeC 2 n
  | .final => encodeN 3
  | .block n => encodeC 4 n
  | .zeroize => encodeN 5
  | .reserved w => w

/-! Every constructor's decoding, shown on a word written out from the spec's format (30_encoding.md R71 to R74; the words
of 95_test_vectors.md V24). -/

theorem decode_nop_word : decodeWord 0b00000000000000000000000000000000 = .nop := by decide

/-- v = 10000 (IVLEN 16), k = 010000 (KLEN 16), i = 1, l = 1, d = 1, m = 001 (CBC), OPC 0001. -/
theorem decode_init_word : decodeWord 0b00000000000100000100001110010001 = .init .cbc true true true 16 16 := by decide

theorem decode_update_word : decodeWord 0b00000000000000000000000001000010 = .update 4 := by decide

theorem decode_final_word : decodeWord 0b00000000000000000000000000000011 = .final := by decide

theorem decode_block_word : decodeWord 0b00000000000000000000000100000100 = .block 16 := by decide

theorem decode_zeroize_word : decodeWord 0b00000000000000000000000000000101 = .zeroize := by decide

theorem decode_reserved_word : decodeWord 0b00000000000000000000000000000111 = .reserved 7 := by decide

end Sys2Proof
end

