-- ==== Sys2Proof/Config.lean ====
section
/-! DEFINITION. Config: what is fixed for the hardware, and the free values the spec leaves open. The free values are
opaque constants: nothing can evaluate them, so a claim holds whatever they are. -/

namespace Sys2Proof.Config

/-- ID reads as this constant: ASCII "AES" and 0x07 (10_state.md R26). -/
def idValue : Word := 0x41455307

/-- Block size in bytes (00_scope.md R8). -/
def blockBytes : Nat := 16

/-- Size of the register window in bytes (00_scope.md R8, 20_memory.md R50). -/
def windowBytes : Nat := 128

/-- FREE VALUE (log 3). CMD_LATENCY, counted as the spec's model counts it: how many STATUS reads after the CMD write still
find the command executing (10_state.md R28; 70_reset_and_hazards.md R238: finite, otherwise open). It may depend on
the command, on the key and on the data, so it is applied to the draw's number, the command word and the contents of
the state. -/
opaque cmdLatency : Nat → Word → List Byte → List Word → Nat

/-- FREE VALUE (log 4). What the STATUS fields other than BUSY hold in a read while BUSY = 1 (10_state.md R28,
93_implementation_defined.md U4), applied to the draw's number, the command word in flight, its remaining wait and the
contents of the state. -/
opaque busyStatus : Nat → Word → Nat → List Byte → List Word → Word

end Sys2Proof.Config
end

