-- ==== Sys2Proof/Machine/State.lean ====
section
/-! DEFINITION. State: every element of 10_state.md R20 as plain data, the input the host and the reset line supply, the reasons
a step can stop, and the state after reset. -/

namespace Sys2Proof.Machine

/-- One thing the outside does to the core, in the order it takes effect (20_memory.md R59). -/
inductive HostOp
  /-- A read of `size` bytes at window offset `off` (MemRead of 00_scope.md R13; only size 4 is legal, 20_memory.md R52; log 17). -/
  | rd (off : Offset) (size : Nat)
  /-- A write of `size` bytes at window offset `off`, with the data word `v` (MemWrite of 00_scope.md R13). -/
  | wr (off : Offset) (size : Nat) (v : Word)
  /-- Repeated reads of STATUS until one returns BUSY = 0 (30_encoding.md R84, form `poll`). -/
  | poll
  /-- The reset input is asserted, or power is applied (70_reset_and_hazards.md R230, R231). -/
  | reset
deriving DecidableEq, Repr

/-- A command between its CMD write and its completion: the word written, and how many further STATUS reads find it still
executing (10_state.md R28; log 2, log 3). -/
structure InFlight where
  word : Word
  wait : Nat
deriving DecidableEq, Repr

/-- The state of one AESKC instance: the record of 10_state.md R20, element by element, and the model's own fields `host`,
`rdata` and `draws`. BUSY is `inflight.isSome` (see `State.busy`). -/
structure State where
  /-- KEYIN (10_state.md R21). -/
  keyIn : KeyBytes
  /-- IVIN (10_state.md R22). -/
  ivIn : Block
  /-- DIN (10_state.md R23). -/
  din : Block
  /-- DOUT (10_state.md R24). -/
  dout : Block
  /-- QLEN (10_state.md R25). -/
  qlen : BitVec 31
  /-- W (10_state.md R36). -/
  w : Schedule
  /-- NR (10_state.md R35). -/
  nr : Rounds
  /-- KEYED (10_state.md R30). -/
  keyed : Bool
  /-- MODE (10_state.md R31). -/
  mode : Mode
  /-- DIR, true = encrypt (10_state.md R31). -/
  dir : Bool
  /-- READY (10_state.md R29). -/
  ready : Bool
  /-- IVCFG (10_state.md R37). -/
  ivcfg : Block
  /-- FB (10_state.md R38). -/
  fb : Block
  /-- ACC (10_state.md R39). -/
  acc : Block
  /-- FILL (10_state.md R33). -/
  fill : Fin 16
  /-- ERR (10_state.md R32). -/
  err : ErrCode
  /-- OUTLEN (10_state.md R34). -/
  outlen : Fin 17
  /-- BUSY, with the command whose completion it awaits (10_state.md R28; log 2). -/
  inflight : Option InFlight
  /-- The model's own: what the host and the reset line do next, first first (log 1). -/
  host : List HostOp
  /-- The model's own: the word the last host read returned (log 6). -/
  rdata : Word
  /-- The model's own: how many free values have been drawn (log 5). -/
  draws : Nat
deriving DecidableEq, Repr

/-- Why a run stops with a fault of the host program (60_exceptions.md R208; a faulted run has no final state,
70_reset_and_hazards.md R242). -/
inductive Fault
  /-- Raised by an access that is misaligned, not 32 bits wide, or at a reserved offset (20_memory.md R52, R53). Safe: the
  hardware reports a bus error and changes no state, the model stops. -/
  | busError (off : Offset)
  /-- Raised by any access other than a STATUS read while BUSY = 1 (20_memory.md R60). Safe: the spec leaves the hardware's
  effect open and names this fault. -/
  | busyViolation (off : Offset)
deriving DecidableEq, Repr

/-- Why the model gives no next state. -/
inductive Refusal
  /-- Raised by `exec` alone, for a command that has no meaning yet. Safe: nothing is said of it. No arm raises it now. -/
  | notModelled (mnemonic : String)
deriving DecidableEq, Repr

/-- The state after reset: every element at the value of 70_reset_and_hazards.md R230. The model's own fields start empty or
at 0 (log 1, log 5, log 6). -/
def State.reset : State where
  keyIn := Vector.replicate 32 0
  ivIn := Vector.replicate 16 0
  din := Vector.replicate 16 0
  dout := Vector.replicate 16 0
  qlen := 0
  w := Vector.replicate 60 0
  nr := .zero
  keyed := false
  mode := .ecb
  dir := false
  ready := false
  ivcfg := Vector.replicate 16 0
  fb := Vector.replicate 16 0
  acc := Vector.replicate 16 0
  fill := 0
  err := .ok
  outlen := 0
  inflight := none
  host := []
  rdata := 0
  draws := 0

end Sys2Proof.Machine
end

