-- ==== Sys2Proof/Machine/Ops.lean ====
section
/-! DEFINITION. Ops: the named operations over blocks, byte arrays and the state: block notation, byte packing, clearing, and
the completion record every command ends with. -/

namespace Sys2Proof.Machine

/-- n zero bytes, as a block (00_scope.md R11). -/
def zeroBlock : Block := Vector.replicate 16 0

/-- A XOR B, byte by byte (00_scope.md R11). -/
def xorBlock (a b : Block) : Block := Vector.ofFn fun i => a[i] ^^^ b[i]

/-- `out || 0^(16 - |out|)`, for a sequence of at most 16 bytes (60_exceptions.md R202). -/
def padBlock (out : List Byte) : Block := Vector.ofFn fun i => out[i.val]?.getD 0

/-- int128(X): byte 0 is the most significant (00_scope.md R12). -/
def int128 (x : Block) : Nat := x.toList.foldl (fun n b => n * 256 + b.toNat) 0

/-- blk(n): the block whose int128 is `n`, for n < 2^128 (00_scope.md R12). -/
def blk (n : Nat) : Block := Vector.ofFn fun i => BitVec.ofNat 8 (n / 256 ^ (15 - i.val))

/-- word_k(B) = (B[4k] << 24) | (B[4k+1] << 16) | (B[4k+2] << 8) | B[4k+3] (20_memory.md R55). -/
def packWord {n : Nat} (b : Vector Byte n) (k : Nat) : Word :=
  wordOfBytes (b[4 * k]?.getD 0) (b[4 * k + 1]?.getD 0) (b[4 * k + 2]?.getD 0) (b[4 * k + 3]?.getD 0)

/-- MemWrite of word k: B[4k] takes v[31:24], …, B[4k+3] takes v[7:0] (20_memory.md R55). -/
def storeWord {n : Nat} (b : Vector Byte n) (k : Nat) (v : Word) : Vector Byte n :=
  Vector.ofFn fun i => if i.val / 4 = k then v.extractLsb' (24 - 8 * (i.val % 4)) 8 else b[i]

/-- BUSY (10_state.md R28). -/
def State.busy (s : State) : Bool := s.inflight.isSome

/-- The completion record: ERR, OUTLEN, DOUT, and BUSY back to 0 (60_exceptions.md R202). -/
def State.complete (s : State) (code : ErrCode) (out : List Byte) : State :=
  { s with err := code, outlen := Fin.ofNat 17 out.length, dout := padBlock out, inflight := none }

/-- `raise Error(code)`: the writes made before it are discarded, so it is applied to the state the command started from
(00_scope.md R13, 60_exceptions.md R202). -/
def State.raiseError (s : State) (code : ErrCode) : State := s.complete code []

/-- The accumulator emptied: ACC all zero, FILL 0 (10_state.md R39). -/
def State.clearAcc (s : State) : State := { s with acc := zeroBlock, fill := 0 }

/-- The stream closed and the accumulator emptied (41_init.md R143, 43_stream.md R174). -/
def State.closeStream (s : State) : State := { s.clearAcc with ready := false }

/-- Every element of 10_state.md R20 except BUSY at its reset value (44_control.md R191, 70_reset_and_hazards.md R230). The
model's own fields are not elements and stay. -/
def State.clearElements (s : State) : State :=
  { State.reset with inflight := s.inflight, host := s.host, rdata := s.rdata, draws := s.draws }

/-- The reset event: the whole record replaced, a command in flight abandoned (70_reset_and_hazards.md R230, R231). What the
host does next, the host's copy of the last read and the numbering of free values are outside the record (log 8). -/
def State.applyReset (s : State) : State := { s.clearElements with inflight := none }

/-- The contents of the state as plain lists, which a free value may depend on (log 3, log 4). -/
def State.byteImage (s : State) : List Byte :=
  s.keyIn.toList ++ s.ivIn.toList ++ s.din.toList ++ s.dout.toList ++ s.ivcfg.toList ++ s.fb.toList ++ s.acc.toList

/-- The outcome with its next state changed by `f`; a fault or refusal stays. -/
def mapNext (f : State → State) (o : Host.Outcome State Fault Refusal) : Host.Outcome State Fault Refusal :=
  match o with
  | .next s => .next (f s)
  | .fault r => .fault r
  | .refused r => .refused r

end Sys2Proof.Machine
end

