-- ==== Sys2Proof/Machine/Operands.lean ====
section
/-! DEFINITION. Operands: what a command reads from its word's fields and from the operand registers (30_encoding.md R76), and
the checks on them. -/

namespace Sys2Proof.Machine

/-- Whether COUNT is one a legal word can carry (30_encoding.md R72, R80). -/
def countLegal (n : BitVec 5) : Bool := n.toNat ≤ 16

/-- DIN[0..n-1], the operand of UPDATE (43_stream.md R170). -/
def State.dinBytes (s : State) (n : BitVec 5) : List Byte := s.din.toList.take n.toNat

/-- Whether KLEN is a legal key length: 16, 24 or 32 bytes (00_scope.md R8, 41_init.md R141). -/
def keyLenLegal (klen : BitVec 6) : Bool := klen.toNat == 16 || klen.toNat == 24 || klen.toNat == 32

/-- Whether IVLEN is the block size (41_init.md R141). -/
def ivLenLegal (ivlen : BitVec 5) : Bool := ivlen.toNat == Config.blockBytes

/-- NR as a number (10_state.md R35). -/
def roundCount (r : Rounds) : Nat :=
  match r with
  | .zero => 0
  | .ten => 10
  | .twelve => 12
  | .fourteen => 14

/-- Nk = KLEN / 4 (40_aes_engine.md R106). -/
def keyWords (klen : Nat) : Nat := klen / 4

/-- The round count Nr = Nk + 6 as a value of NR: 10, 12, 14 for 16, 24, 32 key bytes; no other length reaches the engine
(40_aes_engine.md R106; log 13). -/
def roundsOfKeyLen (klen : Nat) : Rounds :=
  match keyWords klen + 6 with
  | 10 => .ten
  | 12 => .twelve
  | 14 => .fourteen
  | _ => .zero

/-- ECB and CBC take only whole blocks; CFB, OFB and CTR allow a partial last block (43_stream.md R173). -/
def needsWholeBlocks (m : Mode) : Bool :=
  match m with
  | .ecb => true
  | .cbc => true
  | .cfb => false
  | .ofb => false
  | .ctr => false

end Sys2Proof.Machine
end

