-- ==== Sys2Proof/Machine/Flags.lean ====
section
/-! DEFINITION. Flags: the completion codes and the checks that choose one, the STATUS word, and the size registers. -/

namespace Sys2Proof.Machine

/-- The number of a completion code (60_exceptions.md R201). -/
def errNumber (e : ErrCode) : BitVec 4 :=
  match e with
  | .ok => 0
  | .keyLen => 1
  | .param => 2
  | .input => 3
  | .dataLen => 4
  | .state => 5
  | .cmd => 6

/-- Configuration errors, as against data errors; OK is neither (60_exceptions.md R206). -/
def isConfigurationError (e : ErrCode) : Bool :=
  match e with
  | .keyLen => true
  | .param => true
  | .state => true
  | .cmd => true
  | .ok => false
  | .input => false
  | .dataLen => false

/-- Data errors: the supplied data has the wrong length (60_exceptions.md R206). -/
def isDataError (e : ErrCode) : Bool :=
  match e with
  | .input => true
  | .dataLen => true
  | .ok => false
  | .keyLen => false
  | .param => false
  | .state => false
  | .cmd => false

/-- INIT's checks in their order: the first that fails gives the code (41_init.md R140, 60_exceptions.md R204). -/
def initError (s : State) (mode : Mode) (lk li : Bool) (klen : BitVec 6) (ivlen : BitVec 5) : Option ErrCode :=
  if lk && !keyLenLegal klen then some .keyLen
  else if li && mode == .ecb then some .param
  else if li && !ivLenLegal ivlen then some .param
  else if !lk && !s.keyed then some .param
  else none

/-- STATUS: NR [27:24], OUTLEN [20:16], FILL [15:12], ERR [11:8], MODE [6:4], DIR [3], KEYED [2], READY [1], BUSY [0]; the
reserved bits [31:28], [23:21] and [7] are 0 (10_state.md R27). -/
def State.statusWord (s : State) : Word :=
  fieldAt 24 (BitVec.ofNat 4 (roundCount s.nr)) ||| fieldAt 16 (BitVec.ofNat 5 s.outlen.val)
    ||| fieldAt 12 (BitVec.ofNat 4 s.fill.val) ||| fieldAt 8 (errNumber s.err) ||| fieldAt 4 s.mode.code
    ||| flagAt 3 s.dir ||| flagAt 2 s.keyed ||| flagAt 1 s.ready ||| flagAt 0 s.busy

/-- The bits of STATUS that are fields other than BUSY; the reserved bits read as 0 (10_state.md R27). -/
def statusFieldMask : Word := 0x0F1FFF7E

/-- What a STATUS read returns while the command is still executing: BUSY = 1, reserved bits 0, every other field whatever
was drawn (10_state.md R28; log 4). -/
def busyStatusWord (drawn : Word) : Word := (drawn &&& statusFieldMask) ||| 1

/-- OSIZE = zext_32(QLEN) + FILL, which never wraps (43_stream.md R175). -/
def State.osize (s : State) : Word := BitVec.ofNat 32 (s.qlen.toNat + s.fill.val)

/-- USIZE = floor((zext_32(QLEN) + FILL) / 16) · 16 (43_stream.md R176). -/
def State.usize (s : State) : Word := BitVec.ofNat 32 ((s.qlen.toNat + s.fill.val) / 16 * 16)

/-- The words of the state a free value may depend on (log 3, log 4). -/
def State.wordImage (s : State) : List Word := s.statusWord :: s.qlen.zeroExtend 32 :: s.w.toList

end Sys2Proof.Machine
end

