-- ==== Sys2Proof/Machine/Bus.lean ====
section
/-! DEFINITION. Bus: the register window of 20_memory.md: the register map, what a read returns, what a write stores, and the
issue of a command by a write to CMD. -/

namespace Sys2Proof.Machine

/-- The registers of the window (20_memory.md R51). -/
inductive Reg
  | id
  | cmd
  | status
  | qlen
  | osize
  | usize
  | key (k : Fin 8)
  | iv (k : Fin 4)
  | din (k : Fin 4)
  | dout (k : Fin 4)
deriving DecidableEq, Repr

/-- The offset of a register (20_memory.md R51). -/
def regOffset (r : Reg) : Offset :=
  match r with
  | .id => 0x00
  | .cmd => 0x04
  | .status => 0x08
  | .qlen => 0x0C
  | .osize => 0x10
  | .usize => 0x14
  | .key k => BitVec.ofNat 7 (0x20 + 4 * k.val)
  | .iv k => BitVec.ofNat 7 (0x40 + 4 * k.val)
  | .din k => BitVec.ofNat 7 (0x50 + 4 * k.val)
  | .dout k => BitVec.ofNat 7 (0x60 + 4 * k.val)

/-- The register at word index `n` of the window, that is at offset 4n; 6, 7 and 28 to 31 are reserved (20_memory.md R51, R53). -/
def regAtWord (n : Nat) : Option Reg :=
  if n = 0 then some .id
  else if n = 1 then some .cmd
  else if n = 2 then some .status
  else if n = 3 then some .qlen
  else if n = 4 then some .osize
  else if n = 5 then some .usize
  else if n < 8 then none
  else if n < 16 then some (.key (Fin.ofNat 8 (n - 8)))
  else if n < 20 then some (.iv (Fin.ofNat 4 (n - 16)))
  else if n < 24 then some (.din (Fin.ofNat 4 (n - 20)))
  else if n < 28 then some (.dout (Fin.ofNat 4 (n - 24)))
  else none

/-- The register an access reaches: only a 4-byte access at a multiple of 4 that is not reserved reaches one
(20_memory.md R52, R53). -/
def regOfAccess (off : Offset) (size : Nat) : Option Reg :=
  if size = 4 ∧ off.toNat % 4 = 0 then regAtWord (off.toNat / 4) else none

/-- What a read returns while BUSY = 0: a write-only register reads 0 (20_memory.md R51, R54, R55; 10_state.md R21 to R27). -/
def State.readReg (s : State) (r : Reg) : Word :=
  match r with
  | .id => Config.idValue
  | .cmd => 0
  | .status => s.statusWord
  | .qlen => s.qlen.zeroExtend 32
  | .osize => s.osize
  | .usize => s.usize
  | .key _ => 0
  | .iv k => packWord s.ivIn k.val
  | .din k => packWord s.din k.val
  | .dout k => packWord s.dout k.val

/-- A write to CMD issues the command `v`: BUSY becomes 1 for a finite time the spec leaves open (20_memory.md R57,
30_encoding.md R70, 10_state.md R28; log 2, log 3). -/
def State.issue (s : State) (v : Word) : State :=
  { s with inflight := some ⟨v, Config.cmdLatency s.draws v s.byteImage s.wordImage⟩, draws := s.draws + 1 }

/-- What a write does while BUSY = 0: a read-only register ignores it (20_memory.md R54, R55, R57). -/
def State.writeReg (s : State) (r : Reg) (v : Word) : State :=
  match r with
  | .id => s
  | .cmd => s.issue v
  | .status => s
  | .qlen => { s with qlen := v.extractLsb' 0 31 }
  | .osize => s
  | .usize => s
  | .key k => { s with keyIn := storeWord s.keyIn k.val v }
  | .iv k => { s with ivIn := storeWord s.ivIn k.val v }
  | .din k => { s with din := storeWord s.din k.val v }
  | .dout _ => s

/-- Whether an access is the one access allowed while BUSY = 1, a STATUS read (20_memory.md R60; log 7). -/
def isStatusRead (off : Offset) (size : Nat) : Bool := regOfAccess off size == some .status

/-- A read by the host while BUSY = 0 (20_memory.md R52 to R54, R57). -/
def idleRead (s : State) (off : Offset) (size : Nat) : Host.Outcome State Fault Refusal :=
  match regOfAccess off size with
  | some r => .next { s with rdata := s.readReg r }
  | none => .fault (.busError off)

/-- A write by the host (20_memory.md R52 to R54, R57, R60). -/
def busWrite (s : State) (off : Offset) (size : Nat) (v : Word) : Host.Outcome State Fault Refusal :=
  if s.busy then .fault (.busyViolation off)
  else
    match regOfAccess off size with
    | some r => .next (s.writeReg r v)
    | none => .fault (.busError off)

/-- A STATUS read that finds the command still executing: it returns BUSY = 1 and drawn fields, and BUSY stays 1
(10_state.md R28; log 3, log 4). -/
def State.stillExecuting (s : State) (f : InFlight) : State :=
  { s with
    rdata := busyStatusWord (Config.busyStatus s.draws f.word f.wait s.byteImage s.wordImage)
    inflight := some { f with wait := f.wait - 1 }
    draws := s.draws + 1 }

end Sys2Proof.Machine
end

