-- ==== Sys2Proof/Machine/Control.lean ====
section
/-! DEFINITION. Control: NOP, ZEROIZE and the illegal words (44_control.md). -/

namespace Sys2Proof.Machine

/-- NOP (44_control.md R190). -/
def execNop (s : State) : Host.Outcome State Fault Refusal := .next (s.complete .ok [])

/-- ZEROIZE: every element except BUSY to its reset value, then the completion (44_control.md R191; log 9). -/
def execZeroize (s : State) : Host.Outcome State Fault Refusal := .next (s.clearElements.complete .ok [])

/-- An illegal word, whatever it is: ERR_CMD and nothing else (44_control.md R192). -/
def execReserved (_w : Word) (s : State) : Host.Outcome State Fault Refusal := .next (s.complete .cmd [])

end Sys2Proof.Machine
end

