-- ==== Sys2Proof/Machine/Aes.lean ====
section
/-! DEFINITION. Aes: the engine of 40_aes_engine.md as functions: the field GF(2^8), the substitution tables, the key schedule,
the round transformations, the cipher and the inverse cipher. The constants are the spec's own passages from
FIPS-197 (93_implementation_defined.md K1 to K17). -/

namespace Sys2Proof.Machine

/-- The product of the polynomials a(x) and the low `n` terms of b(x), not reduced (40_aes_engine.md R100, R101). -/
def polyMul (a b : Byte) (n : Nat) : BitVec 16 :=
  match n with
  | 0 => 0
  | i + 1 => polyMul a b i ^^^ (if b.getLsbD i then a.setWidth 16 <<< i else 0)

/-- Reduction modulo m(x) = 0x11B: the terms x^(8+n-1) down to x^8 are cancelled, the highest first (40_aes_engine.md R101). -/
def polyReduce (n : Nat) (p : BitVec 16) : BitVec 16 :=
  match n with
  | 0 => p
  | k + 1 => polyReduce k (if p.getLsbD (8 + k) then p ^^^ (0x11B#16 <<< k) else p)

/-- Multiplication in GF(2^8) (40_aes_engine.md R101). -/
def gfMul (a b : Byte) : Byte := (polyReduce 7 (polyMul a b 8)).setWidth 8

/-- xtime(b) = ((b << 1) & 0xFF) XOR (b[7] == 1 ? 0x1B : 0) (40_aes_engine.md R102). -/
def xtime (b : Byte) : Byte := (b <<< 1) ^^^ (if b.getLsbD 7 then 0x1B else 0x00)

/-- The first byte below `n`, from the top, whose product with b is 01; 00 if there is none. -/
def inverseBelow (b : Byte) (n : Nat) : Byte :=
  match n with
  | 0 => 0
  | k + 1 => if gfMul b (BitVec.ofNat 8 k) = 1 then BitVec.ofNat 8 k else inverseBelow b k

/-- inv(b): the byte c with b • c = 01, and inv(00) = 00 (40_aes_engine.md R103). Found by search over the 256 bytes; that it is
unique is the obligation FieldInverseIsUnique. -/
def gfInv (b : Byte) : Byte := inverseBelow b 256

/-- The affine image of b: bit i is b[i] XOR b[i+4] XOR b[i+5] XOR b[i+6] XOR b[i+7] XOR 0x63[i], indices mod 8
(40_aes_engine.md R104). -/
def affine (b : Byte) : Byte :=
  b ^^^ b.rotateRight 4 ^^^ b.rotateRight 5 ^^^ b.rotateRight 6 ^^^ b.rotateRight 7 ^^^ 0x63

/-- The S-box table, as the spec prints it (40_aes_engine.md R104). -/
def sboxTable : Vector Block 16 := #v[
  #v[0x63, 0x7C, 0x77, 0x7B, 0xF2, 0x6B, 0x6F, 0xC5, 0x30, 0x01, 0x67, 0x2B, 0xFE, 0xD7, 0xAB, 0x76],
  #v[0xCA, 0x82, 0xC9, 0x7D, 0xFA, 0x59, 0x47, 0xF0, 0xAD, 0xD4, 0xA2, 0xAF, 0x9C, 0xA4, 0x72, 0xC0],
  #v[0xB7, 0xFD, 0x93, 0x26, 0x36, 0x3F, 0xF7, 0xCC, 0x34, 0xA5, 0xE5, 0xF1, 0x71, 0xD8, 0x31, 0x15],
  #v[0x04, 0xC7, 0x23, 0xC3, 0x18, 0x96, 0x05, 0x9A, 0x07, 0x12, 0x80, 0xE2, 0xEB, 0x27, 0xB2, 0x75],
  #v[0x09, 0x83, 0x2C, 0x1A, 0x1B, 0x6E, 0x5A, 0xA0, 0x52, 0x3B, 0xD6, 0xB3, 0x29, 0xE3, 0x2F, 0x84],
  #v[0x53, 0xD1, 0x00, 0xED, 0x20, 0xFC, 0xB1, 0x5B, 0x6A, 0xCB, 0xBE, 0x39, 0x4A, 0x4C, 0x58, 0xCF],
  #v[0xD0, 0xEF, 0xAA, 0xFB, 0x43, 0x4D, 0x33, 0x85, 0x45, 0xF9, 0x02, 0x7F, 0x50, 0x3C, 0x9F, 0xA8],
  #v[0x51, 0xA3, 0x40, 0x8F, 0x92, 0x9D, 0x38, 0xF5, 0xBC, 0xB6, 0xDA, 0x21, 0x10, 0xFF, 0xF3, 0xD2],
  #v[0xCD, 0x0C, 0x13, 0xEC, 0x5F, 0x97, 0x44, 0x17, 0xC4, 0xA7, 0x7E, 0x3D, 0x64, 0x5D, 0x19, 0x73],
  #v[0x60, 0x81, 0x4F, 0xDC, 0x22, 0x2A, 0x90, 0x88, 0x46, 0xEE, 0xB8, 0x14, 0xDE, 0x5E, 0x0B, 0xDB],
  #v[0xE0, 0x32, 0x3A, 0x0A, 0x49, 0x06, 0x24, 0x5C, 0xC2, 0xD3, 0xAC, 0x62, 0x91, 0x95, 0xE4, 0x79],
  #v[0xE7, 0xC8, 0x37, 0x6D, 0x8D, 0xD5, 0x4E, 0xA9, 0x6C, 0x56, 0xF4, 0xEA, 0x65, 0x7A, 0xAE, 0x08],
  #v[0xBA, 0x78, 0x25, 0x2E, 0x1C, 0xA6, 0xB4, 0xC6, 0xE8, 0xDD, 0x74, 0x1F, 0x4B, 0xBD, 0x8B, 0x8A],
  #v[0x70, 0x3E, 0xB5, 0x66, 0x48, 0x03, 0xF6, 0x0E, 0x61, 0x35, 0x57, 0xB9, 0x86, 0xC1, 0x1D, 0x9E],
  #v[0xE1, 0xF8, 0x98, 0x11, 0x69, 0xD9, 0x8E, 0x94, 0x9B, 0x1E, 0x87, 0xE9, 0xCE, 0x55, 0x28, 0xDF],
  #v[0x8C, 0xA1, 0x89, 0x0D, 0xBF, 0xE6, 0x42, 0x68, 0x41, 0x99, 0x2D, 0x0F, 0xB0, 0x54, 0xBB, 0x16]]

/-- The inverse S-box table, as the spec prints it (40_aes_engine.md R105). -/
def invSboxTable : Vector Block 16 := #v[
  #v[0x52, 0x09, 0x6A, 0xD5, 0x30, 0x36, 0xA5, 0x38, 0xBF, 0x40, 0xA3, 0x9E, 0x81, 0xF3, 0xD7, 0xFB],
  #v[0x7C, 0xE3, 0x39, 0x82, 0x9B, 0x2F, 0xFF, 0x87, 0x34, 0x8E, 0x43, 0x44, 0xC4, 0xDE, 0xE9, 0xCB],
  #v[0x54, 0x7B, 0x94, 0x32, 0xA6, 0xC2, 0x23, 0x3D, 0xEE, 0x4C, 0x95, 0x0B, 0x42, 0xFA, 0xC3, 0x4E],
  #v[0x08, 0x2E, 0xA1, 0x66, 0x28, 0xD9, 0x24, 0xB2, 0x76, 0x5B, 0xA2, 0x49, 0x6D, 0x8B, 0xD1, 0x25],
  #v[0x72, 0xF8, 0xF6, 0x64, 0x86, 0x68, 0x98, 0x16, 0xD4, 0xA4, 0x5C, 0xCC, 0x5D, 0x65, 0xB6, 0x92],
  #v[0x6C, 0x70, 0x48, 0x50, 0xFD, 0xED, 0xB9, 0xDA, 0x5E, 0x15, 0x46, 0x57, 0xA7, 0x8D, 0x9D, 0x84],
  #v[0x90, 0xD8, 0xAB, 0x00, 0x8C, 0xBC, 0xD3, 0x0A, 0xF7, 0xE4, 0x58, 0x05, 0xB8, 0xB3, 0x45, 0x06],
  #v[0xD0, 0x2C, 0x1E, 0x8F, 0xCA, 0x3F, 0x0F, 0x02, 0xC1, 0xAF, 0xBD, 0x03, 0x01, 0x13, 0x8A, 0x6B],
  #v[0x3A, 0x91, 0x11, 0x41, 0x4F, 0x67, 0xDC, 0xEA, 0x97, 0xF2, 0xCF, 0xCE, 0xF0, 0xB4, 0xE6, 0x73],
  #v[0x96, 0xAC, 0x74, 0x22, 0xE7, 0xAD, 0x35, 0x85, 0xE2, 0xF9, 0x37, 0xE8, 0x1C, 0x75, 0xDF, 0x6E],
  #v[0x47, 0xF1, 0x1A, 0x71, 0x1D, 0x29, 0xC5, 0x89, 0x6F, 0xB7, 0x62, 0x0E, 0xAA, 0x18, 0xBE, 0x1B],
  #v[0xFC, 0x56, 0x3E, 0x4B, 0xC6, 0xD2, 0x79, 0x20, 0x9A, 0xDB, 0xC0, 0xFE, 0x78, 0xCD, 0x5A, 0xF4],
  #v[0x1F, 0xDD, 0xA8, 0x33, 0x88, 0x07, 0xC7, 0x31, 0xB1, 0x12, 0x10, 0x59, 0x27, 0x80, 0xEC, 0x5F],
  #v[0x60, 0x51, 0x7F, 0xA9, 0x19, 0xB5, 0x4A, 0x0D, 0x2D, 0xE5, 0x7A, 0x9F, 0x93, 0xC9, 0x9C, 0xEF],
  #v[0xA0, 0xE0, 0x3B, 0x4D, 0xAE, 0x2A, 0xF5, 0xB0, 0xC8, 0xEB, 0xBB, 0x3C, 0x83, 0x53, 0x99, 0x61],
  #v[0x17, 0x2B, 0x04, 0x7E, 0xBA, 0x77, 0xD6, 0x26, 0xE1, 0x69, 0x14, 0x63, 0x55, 0x21, 0x0C, 0x7D]]

/-- A 16 by 16 table at a byte: the row is the high hex digit, the column the low one (40_aes_engine.md R104). -/
def tableAt (t : Vector Block 16) (a : Byte) : Byte :=
  (t[a.toNat / 16]?.getD zeroBlock)[a.toNat % 16]?.getD 0

/-- S(a) (40_aes_engine.md R104). -/
def sbox (a : Byte) : Byte := tableAt sboxTable a

/-- InvS(a) (40_aes_engine.md R105). -/
def invSbox (a : Byte) : Byte := tableAt invSboxTable a

/-- rc[1] = 01, rc[j] = xtime(rc[j-1]) (40_aes_engine.md R107; rc[0] is not used). -/
def rc (j : Nat) : Byte :=
  match j with
  | 0 => 0
  | 1 => 1
  | k + 2 => xtime (rc (k + 1))

/-- Rcon[j]: rc[j] in the most significant byte (40_aes_engine.md R107). -/
def rcon (j : Nat) : Word := fieldAt 24 (rc j)

/-- RotWord: a rotate left by 8 bits (40_aes_engine.md R108). -/
def rotWord (w : Word) : Word := w.rotateLeft 8

/-- SubWord: S on each byte (40_aes_engine.md R108). -/
def subWord (w : Word) : Word :=
  wordOfBytes (sbox (w.extractLsb' 24 8)) (sbox (w.extractLsb' 16 8)) (sbox (w.extractLsb' 8 8))
    (sbox (w.extractLsb' 0 8))

/-- W[i]; every index the rules use is below 60. -/
def wordAt (w : Schedule) (i : Nat) : Word := w[i]?.getD 0

/-- `temp` of the expansion step for word i, from the words before it (40_aes_engine.md R110). -/
def expandTemp (nk i : Nat) (w : Schedule) : Word :=
  let temp := wordAt w (i - 1)
  if i % nk = 0 then subWord (rotWord temp) ^^^ rcon (i / nk)
  else if nk = 8 ∧ i % nk = 4 then subWord temp
  else temp

/-- The expansion loop over the `n` words from i on: W[i] = W[i-Nk] XOR temp (40_aes_engine.md R110). -/
def expandFrom (nk n i : Nat) (w : Schedule) : Schedule :=
  match n with
  | 0 => w
  | k + 1 => expandFrom nk k (i + 1) (w.setIfInBounds i (wordAt w (i - nk) ^^^ expandTemp nk i w))

/-- The first Nk words are the key's, big-endian; the others start at 0 (40_aes_engine.md R109, R110). -/
def loadKey (key : KeyBytes) (nk : Nat) : Schedule :=
  Vector.ofFn fun i => if i.val < nk then packWord key i.val else 0

/-- KeyExpansion(K, KLEN) = (W, NR), K the first KLEN bytes of `key` (40_aes_engine.md R110). -/
def keyExpansion (key : KeyBytes) (klen : Nat) : Schedule × Rounds :=
  let nk := keyWords klen
  let nr := nk + 6
  (expandFrom nk (4 * (nr + 1) - nk) nk (loadKey key nk), roundsOfKeyLen klen)

/-- RK(r)[4c+j] = W[4r+c][31-8j : 24-8j] (40_aes_engine.md R111). -/
def roundKey (w : Schedule) (r : Nat) : Block :=
  Vector.ofFn fun k => (wordAt w (4 * r + k.val / 4)).extractLsb' (24 - 8 * (k.val % 4)) 8

/-- SubBytes (40_aes_engine.md R114). -/
def subBytes (s : Block) : Block := Vector.ofFn fun k => sbox s[k]

/-- InvSubBytes (40_aes_engine.md R114). -/
def invSubBytes (s : Block) : Block := Vector.ofFn fun k => invSbox s[k]

/-- The byte of row r and column c, each taken mod 4, in the index order r + 4c (40_aes_engine.md R113). -/
def cell (s : Block) (r c : Nat) : Byte := s[r % 4 + 4 * (c % 4)]'(by omega)

/-- ShiftRows: row r rotated left by r (40_aes_engine.md R115). -/
def shiftRows (s : Block) : Block :=
  Vector.ofFn fun k => cell s (k.val % 4) (k.val / 4 + k.val % 4)

/-- InvShiftRows: row r rotated right by r; c - r is taken mod 4 (40_aes_engine.md R115). -/
def invShiftRows (s : Block) : Block :=
  Vector.ofFn fun k => cell s (k.val % 4) (k.val / 4 + 4 - k.val % 4)

/-- Each column multiplied by the circulant matrix whose row 0 is (m0, m1, m2, m3): row r of the result is
m0•s[r] XOR m1•s[r+1] XOR m2•s[r+2] XOR m3•s[r+3], row indices mod 4 (40_aes_engine.md R116, R117). -/
def mixWith (m0 m1 m2 m3 : Byte) (s : Block) : Block :=
  Vector.ofFn fun k =>
    gfMul m0 (cell s (k.val % 4) (k.val / 4)) ^^^ gfMul m1 (cell s (k.val % 4 + 1) (k.val / 4))
      ^^^ gfMul m2 (cell s (k.val % 4 + 2) (k.val / 4)) ^^^ gfMul m3 (cell s (k.val % 4 + 3) (k.val / 4))

/-- MixColumns (40_aes_engine.md R116). -/
def mixColumns (s : Block) : Block := mixWith 0x02 0x03 0x01 0x01 s

/-- InvMixColumns (40_aes_engine.md R117). -/
def invMixColumns (s : Block) : Block := mixWith 0x0E 0x0B 0x0D 0x09 s

/-- AddRoundKey(s, r) (40_aes_engine.md R118). -/
def addRoundKey (w : Schedule) (s : Block) (r : Nat) : Block := xorBlock s (roundKey w r)

/-- `n` full rounds of the cipher, from round r on (40_aes_engine.md R119). -/
def encryptRounds (w : Schedule) (n r : Nat) (s : Block) : Block :=
  match n with
  | 0 => s
  | k + 1 => encryptRounds w k (r + 1) (addRoundKey w (mixColumns (shiftRows (subBytes s))) r)

/-- AES_E(W, NR, X) (40_aes_engine.md R119; with NR = 0, which no caller has, no full round: log 13). -/
def aesE (w : Schedule) (nr : Rounds) (x : Block) : Block :=
  let s := encryptRounds w (roundCount nr - 1) 1 (addRoundKey w x 0)
  addRoundKey w (shiftRows (subBytes s)) (roundCount nr)

/-- Full rounds `n` down to 1 of the inverse cipher (40_aes_engine.md R120). -/
def decryptRounds (w : Schedule) (n : Nat) (s : Block) : Block :=
  match n with
  | 0 => s
  | k + 1 => decryptRounds w k (invMixColumns (addRoundKey w (invSubBytes (invShiftRows s)) (k + 1)))

/-- AES_D(W, NR, Y), the direct inverse cipher (40_aes_engine.md R120). -/
def aesD (w : Schedule) (nr : Rounds) (y : Block) : Block :=
  let s := decryptRounds w (roundCount nr - 1) (addRoundKey w y (roundCount nr))
  addRoundKey w (invSubBytes (invShiftRows s)) 0

end Sys2Proof.Machine
end

