-- ==== Sys2Proof/Machine/Modes.lean ====
section
/-! DEFINITION. Modes: the mode block function of 42_modes.md, the counter increment, and BLOCK. -/

namespace Sys2Proof.Machine

/-- Inc128(B) = blk((int128(B) + 1) mod 2^128) (42_modes.md R159). -/
def inc128 (b : Block) : Block := blk ((int128 b + 1) % 2 ^ 128)

/-- E(v) of the loaded key (42_modes.md R150). -/
def State.encipher (s : State) (v : Block) : Block := aesE s.w s.nr v

/-- D(v) of the loaded key (42_modes.md R150). -/
def State.decipher (s : State) (v : Block) : Block := aesD s.w s.nr v

/-- KS, the keystream block of the stream modes at this stream position (42_modes.md R163). -/
def State.keystream (s : State) : Block := s.encipher s.fb

/-- The block out Y and the new FB, for a block in X, from the mode, the direction, the two engine functions and the old
FB (42_modes.md R150 to R158; the mode laws of R162 follow from this table). -/
def chainBlock (mode : Mode) (dir : Bool) (enc dec : Block → Block) (fb x : Block) : Block × Block :=
  match mode with
  | .ecb => (if dir then enc x else dec x, fb)
  | .cbc =>
    if dir then
      let y := enc (xorBlock x fb)
      (y, y)
    else (xorBlock (dec x) fb, x)
  | .cfb =>
    let y := xorBlock x (enc fb)
    (y, if dir then y else x)
  | .ofb =>
    let k := enc fb
    (xorBlock x k, k)
  | .ctr => (xorBlock x (enc fb), inc128 fb)

/-- ModeBlock(X): returns Y, writes FB and nothing else (42_modes.md R150). -/
def modeBlock (s : State) (x : Block) : Block × State :=
  let r := chainBlock s.mode s.dir s.encipher s.decipher s.fb x
  (r.1, { s with fb := r.2 })

/-- BLOCK(n): the block DIN through the configured mode; ACC and FILL take no part (42_modes.md R160, R161). COUNT above 16
is an illegal word and is checked first (60_exceptions.md R204; log 14). -/
def execBlock (n : BitVec 5) (s : State) : Host.Outcome State Fault Refusal :=
  if !countLegal n then .next (s.raiseError .cmd)
  else if !s.ready then .next (s.raiseError .state)
  else if n.toNat < Config.blockBytes then .next (s.raiseError .input)
  else .next ((modeBlock s s.din).2.complete .ok (modeBlock s s.din).1.toList)

end Sys2Proof.Machine
end

