-- ==== Sys2Proof/Machine/Init.lean ====
section
/-! DEFINITION. Init: INIT, which loads a key, loads an IV and opens a stream (41_init.md). -/

namespace Sys2Proof.Machine

/-- The key part of a successful INIT: with LK = 1, W and NR from KeyExpansion of KEYIN[0..KLEN-1], KEYED = 1
(41_init.md R140, R142). -/
def State.loadKeyIf (s : State) (lk : Bool) (klen : BitVec 6) : State :=
  if lk then
    let e := keyExpansion s.keyIn klen.toNat
    { s with w := e.1, nr := e.2, keyed := true }
  else s

/-- The IV part of a successful INIT: with LI = 1, IVCFG from IVIN (41_init.md R140, R142). -/
def State.loadIvIf (s : State) (li : Bool) : State :=
  if li then { s with ivcfg := s.ivIn } else s

/-- The stream opened: FB from IVCFG, MODE, DIR, empty accumulator, READY = 1 (41_init.md R140, R142). -/
def State.openStream (s : State) (mode : Mode) (dir : Bool) : State :=
  { s.clearAcc with fb := s.ivcfg, mode := mode, dir := dir, ready := true }

/-- INIT (41_init.md R140): the checks in order; a failure closes the stream and empties the accumulator (R143). -/
def execInit (mode : Mode) (dir lk li : Bool) (klen : BitVec 6) (ivlen : BitVec 5) (s : State) :
    Host.Outcome State Fault Refusal :=
  match initError s mode lk li klen ivlen with
  | some code => .next (s.closeStream.complete code [])
  | none => .next ((((s.loadKeyIf lk klen).loadIvIf li).openStream mode dir).complete .ok [])

end Sys2Proof.Machine
end

