-- ==== Sys2Proof/Machine/Stream.lean ====
section
/-! DEFINITION. Stream: the block accumulator and its two commands, UPDATE and FINAL (43_stream.md). -/

namespace Sys2Proof.Machine

/-- One turn of UPDATE's loop: the byte goes to ACC[FILL]; a full accumulator goes through ModeBlock, its output is appended,
and the accumulator is emptied (43_stream.md R170). -/
def absorbByte (r : State × List Byte) (b : Byte) : State × List Byte :=
  let acc := r.1.acc.set r.1.fill.val b
  if r.1.fill.val + 1 = Config.blockBytes then
    let y := modeBlock { r.1 with acc := acc } acc
    (y.2.clearAcc, r.2 ++ y.1.toList)
  else ({ r.1 with acc := acc, fill := Fin.ofNat 16 (r.1.fill.val + 1) }, r.2)

/-- UPDATE's loop over its input bytes (43_stream.md R170). -/
def absorb (s : State) (bytes : List Byte) : State × List Byte := bytes.foldl absorbByte (s, [])

/-- UPDATE(n) (43_stream.md R170). COUNT above 16 is an illegal word and is checked first (60_exceptions.md R204; log 14). -/
def execUpdate (n : BitVec 5) (s : State) : Host.Outcome State Fault Refusal :=
  if !countLegal n then .next (s.raiseError .cmd)
  else if !s.ready then .next (s.raiseError .state)
  else .next ((absorb s (s.dinBytes n)).1.complete .ok (absorb s (s.dinBytes n)).2)

/-- FINAL's code and output: nothing buffered is no output; a partial block is an error in ECB and CBC, and in the stream
modes it is XORed with the first bytes of the keystream (43_stream.md R172, R173). -/
def finalResult (s : State) : ErrCode × List Byte :=
  if s.fill.val = 0 then (.ok, [])
  else if needsWholeBlocks s.mode then (.dataLen, [])
  else (.ok, (xorBlock s.acc s.keystream).toList.take s.fill.val)

/-- FINAL: flush, then close the stream and reload FB from IVCFG whatever the code is (43_stream.md R172, R174). -/
def execFinal (s : State) : Host.Outcome State Fault Refusal :=
  if !s.ready then .next (s.raiseError .state)
  else .next ({ s.closeStream with fb := s.ivcfg }.complete (finalResult s).1 (finalResult s).2)

end Sys2Proof.Machine
end

