-- ==== Sys2Proof/Machine/Dispatch.lean ====
section
/-! DEFINITION. Dispatch: the meaning of each command, one arm per constructor. -/

namespace Sys2Proof.Machine

def exec (i : Instr) (s : State) : Host.Outcome State Fault Refusal :=
  match i with
  | .nop => Sys2Proof.Machine.execNop s
  | .init mode dir lk li klen ivlen => Sys2Proof.Machine.execInit mode dir lk li klen ivlen s
  | .update n => Sys2Proof.Machine.execUpdate n s
  | .final => Sys2Proof.Machine.execFinal s
  | .block n => Sys2Proof.Machine.execBlock n s
  | .zeroize => Sys2Proof.Machine.execZeroize s
  | .reserved w => Sys2Proof.Machine.execReserved w s

end Sys2Proof.Machine
end

