-- ==== Sys2Proof/Machine/Host.lean ====
section
/-! DEFINITION. Host: what one access of the host, or the reset input, does to the core, and how a command written to CMD comes
to its completion. -/

namespace Sys2Proof.Machine

/-- A STATUS read that finds the command completed: all its effects become visible, and the read returns the complete
STATUS after it (10_state.md R28, 20_memory.md R58). -/
def completeCommand (s : State) (c : Word) : Host.Outcome State Fault Refusal :=
  mapNext (fun t => { t with rdata := t.statusWord }) (exec (decodeWord c) s)

/-- A STATUS read while the command `f` is in flight: one of the two outcomes of 10_state.md R28. -/
def busyStatusRead (s : State) (f : InFlight) : Host.Outcome State Fault Refusal :=
  if f.wait = 0 then completeCommand s f.word else .next (s.stillExecuting f)

/-- A read by the host; while BUSY = 1 only STATUS may be read (20_memory.md R52 to R54, R60). -/
def busRead (s : State) (off : Offset) (size : Nat) : Host.Outcome State Fault Refusal :=
  match s.inflight with
  | none => idleRead s off size
  | some f => if isStatusRead off size then busyStatusRead s f else .fault (.busyViolation off)

/-- One STATUS read of a `poll`; the poll is over when the read returned BUSY = 0, else it goes on (30_encoding.md R84). -/
def pollOnce (s : State) (rest : List HostOp) : Host.Outcome State Fault Refusal :=
  mapNext (fun t => if t.rdata.getLsbD 0 then { t with host := .poll :: rest } else t)
    (busRead { s with host := rest } (regOffset .status) 4)

/-- What the next event does; the host's accesses take effect in the order it issues them (20_memory.md R59). With no event
the core does nothing: it never stops and never halts (70_reset_and_hazards.md R242; log 1). -/
def hostStep (s : State) : Host.Outcome State Fault Refusal :=
  match s.host with
  | [] => .next s
  | .rd off size :: rest => busRead { s with host := rest } off size
  | .wr off size v :: rest => busWrite { s with host := rest } off size v
  | .poll :: rest => pollOnce s rest
  | .reset :: rest => .next { s.applyReset with host := rest }

/-- The command word `c` placed where the next step runs it: written to CMD and due to complete, and a STATUS read next
(log 1, log 2). -/
def State.placeCommand (s : State) (c : Word) : State :=
  { s with inflight := some ⟨c, 0⟩, host := .rd (regOffset .status) 4 :: s.host }

end Sys2Proof.Machine
end

