-- ==== Sys2Proof/Machine/Step.lean ====
section
/-! DEFINITION. Step: one step of the machine, and where a command is placed for the next step to run it. -/

namespace Sys2Proof.Machine

/-- One step: the next event of the host or of the reset input takes effect. -/
def step (s : State) : Host.Outcome State Fault Refusal := hostStep s

/-- `s` with the command word `w` (of `nbits` given bits, the bits above them 0) written to CMD and due to complete at the
next step, a STATUS read (log 1). AESKC fetches no instructions (10_state.md R41). -/
def State.withFetchWord (s : State) (nbits w : Nat) : State := s.placeCommand (BitVec.ofNat 32 (w % 2 ^ nbits))

end Sys2Proof.Machine
end

