-- ==== Sys2Proof/Machine/Asm.lean ====
section
/-! DEFINITION. Asm: the assembler's forms and pseudo-instructions as functions from a form to the command word or to the
host's accesses, the disassembler, and the text of a form (30_encoding.md R84, R85; log 16). -/

namespace Sys2Proof.Machine

/-- The command forms of the assembler (30_encoding.md R84). An absent `key=` or `iv=` is `none`. -/
inductive CmdForm
  | nop
  | init (mode : Mode) (enc : Bool) (key : Option (BitVec 6)) (iv : Option (BitVec 5))
  | update (n : BitVec 5)
  | block (n : BitVec 5)
  | final
  | zeroize
  | illegal (w : Word)
deriving DecidableEq, Repr

/-- The command a form stands for: `key=` present sets LK and KLEN, `iv=` present sets LI and IVLEN, absent fields are 0
(30_encoding.md R84). -/
def CmdForm.toInstr (f : CmdForm) : Instr :=
  match f with
  | .nop => .nop
  | .init mode enc key iv => .init mode enc key.isSome iv.isSome (key.getD 0) (iv.getD 0)
  | .update n => .update n
  | .block n => .block n
  | .final => .final
  | .zeroize => .zeroize
  | .illegal w => .reserved w

/-- The command word a form assembles to (30_encoding.md R84). -/
def CmdForm.word (f : CmdForm) : Word := encode f.toInstr

/-- The form of a command: `key=` only when LK = 1, `iv=` only when LI = 1, `.illegal` for an illegal word
(30_encoding.md R85). -/
def formOf (i : Instr) : CmdForm :=
  match i with
  | .nop => .nop
  | .init mode dir lk li klen ivlen =>
    .init mode dir (if lk then some klen else none) (if li then some ivlen else none)
  | .update n => .update n
  | .final => .final
  | .block n => .block n
  | .zeroize => .zeroize
  | .reserved w => .illegal w

/-- The disassembler (30_encoding.md R85). -/
def disassemble (c : Word) : CmdForm := formOf (decodeWord c)

/-- `wr <reg>, <value>` (30_encoding.md R84). -/
def wrReg (r : Reg) (v : Word) : HostOp := .wr (regOffset r) 4 v

/-- `rd <reg>` (30_encoding.md R84). -/
def rdReg (r : Reg) : HostOp := .rd (regOffset r) 4

/-- `cmd <command form>`: the CMD write, then `poll` (30_encoding.md R85). -/
def cmdOps (f : CmdForm) : List HostOp := [wrReg .cmd f.word, .poll]

/-- word_k of a byte sequence padded with zeros (30_encoding.md R85). -/
def packListWord (bytes : List Byte) (k : Nat) : Word :=
  wordOfBytes (bytes[4 * k]?.getD 0) (bytes[4 * k + 1]?.getD 0) (bytes[4 * k + 2]?.getD 0) (bytes[4 * k + 3]?.getD 0)

/-- The writes of a byte sequence of length L to consecutive word registers: k = 0 .. ceil(L/4) - 1 (30_encoding.md R85). -/
def writeWords (reg : Nat → Reg) (bytes : List Byte) : List HostOp :=
  (List.range ((bytes.length + 3) / 4)).map fun k => wrReg (reg k) (packListWord bytes k)

/-- `setkey <hex bytes>` (30_encoding.md R85). -/
def setKeyOps (bytes : List Byte) : List HostOp := writeWords (fun k => .key (Fin.ofNat 8 k)) bytes

/-- `setiv <hex bytes, 16>` (30_encoding.md R85). -/
def setIvOps (bytes : List Byte) : List HostOp := writeWords (fun k => .iv (Fin.ofNat 4 k)) bytes

/-- `setdin <hex bytes, length at most 16>` (30_encoding.md R85). -/
def setDinOps (bytes : List Byte) : List HostOp := writeWords (fun k => .din (Fin.ofNat 4 k)) bytes

/-- `feed <hex bytes>`: `setdin`, then `cmd update L` (30_encoding.md R85). -/
def feedOps (bytes : List Byte) : List HostOp :=
  setDinOps bytes ++ cmdOps (.update (BitVec.ofNat 5 bytes.length))

/-- `getout`, for the OUTLEN that its STATUS read returns: `rd STATUS`, then `rd DOUTk` for k = 0 .. ceil(OUTLEN/4) - 1
(30_encoding.md R85). -/
def getOutOps (outlen : Nat) : List HostOp :=
  rdReg .status :: (List.range ((outlen + 3) / 4)).map fun k => rdReg (.dout (Fin.ofNat 4 k))

/-- The name of a mode in the assembler (30_encoding.md R84). -/
def modeName (m : Mode) : String :=
  match m with
  | .ecb => "ecb"
  | .cbc => "cbc"
  | .cfb => "cfb"
  | .ofb => "ofb"
  | .ctr => "ctr"

/-- One hex digit. -/
def hexDigit (b : BitVec 4) : Char := Nat.digitChar b.toNat

/-- Eight hex digits of a word, the most significant first. -/
def hexWord (w : Word) : String :=
  String.ofList ((List.range 8).map fun k => hexDigit (w.extractLsb' (28 - 4 * k) 4))

/-- The text of a command form (30_encoding.md R84, R85). -/
def CmdForm.text (f : CmdForm) : String :=
  match f with
  | .nop => "nop"
  | .init mode enc key iv =>
    "init " ++ modeName mode ++ (if enc then ", enc" else ", dec")
      ++ (key.elim "" fun k => ", key=" ++ Nat.repr k.toNat) ++ (iv.elim "" fun v => ", iv=" ++ Nat.repr v.toNat)
  | .update n => "update " ++ Nat.repr n.toNat
  | .block n => "block " ++ Nat.repr n.toNat
  | .final => "final"
  | .zeroize => "zeroize"
  | .illegal w => ".illegal 0x" ++ hexWord w

/-! Reading the text of a program (30_encoding.md R84, R85). -/

/-- The characters cut at every character that `sep` accepts, empty pieces left out. -/
def splitChars (sep : Char → Bool) (cs : List Char) : List (List Char) :=
  (cs.foldr (fun c r => if sep c then [] :: r else
    match r with
    | [] => [[c]]
    | p :: ps => (c :: p) :: ps) [[]]).filter fun p => !p.isEmpty

/-- The words of a line: `;` starts a comment, spaces and commas separate (30_encoding.md R84). -/
def lineWords (line : List Char) : List String :=
  (splitChars (fun c => c == ' ' || c == ',') (line.takeWhile fun c => c != ';')).map String.ofList

/-- The value of a digit, decimal or hexadecimal in either case. -/
def digitValue (c : Char) : Option Nat :=
  if '0' ≤ c ∧ c ≤ '9' then some (c.toNat - '0'.toNat)
  else if 'a' ≤ c ∧ c ≤ 'f' then some (c.toNat - 'a'.toNat + 10)
  else if 'A' ≤ c ∧ c ≤ 'F' then some (c.toNat - 'A'.toNat + 10)
  else none

/-- The value of a sequence of digits in a base, at least one digit. -/
def digitsValue (base : Nat) (cs : List Char) : Option Nat :=
  if cs.isEmpty then none
  else cs.foldl (fun n c => match n, digitValue c with
    | some n, some d => if d < base then some (n * base + d) else none
    | _, _ => none) (some 0)

/-- A number: decimal, or hexadecimal with the prefix `0x` (30_encoding.md R84). -/
def numberOf (w : String) : Option Nat :=
  match w.toList with
  | '0' :: 'x' :: ds => digitsValue 16 ds
  | ds => digitsValue 10 ds

/-- A number below a bound. -/
def numberBelow (bound : Nat) (w : String) : Option Nat :=
  match numberOf w with
  | some n => if n < bound then some n else none
  | none => none

/-- A register's name with its index, such as `KEY3`, below a bound. That an index with leading zeros (`KEY03`) is read as its value
is the model's choice (log 16): 20_memory.md R51 names KEY0..KEY7 and the spec says nothing of other spellings. -/
def indexedName (name : List Char) (bound : Nat) (w : List Char) : Option Nat :=
  if name.isPrefixOf w then
    match digitsValue 10 (w.drop name.length) with
    | some n => if n < bound then some n else none
    | none => none
  else none

/-- The register a name of the register map stands for (20_memory.md R51). -/
def regNamed (w : String) : Option Reg :=
  if w = "ID" then some .id
  else if w = "CMD" then some .cmd
  else if w = "STATUS" then some .status
  else if w = "QLEN" then some .qlen
  else if w = "OSIZE" then some .osize
  else if w = "USIZE" then some .usize
  else
    match indexedName "KEY".toList 8 w.toList, indexedName "IV".toList 4 w.toList, indexedName "DIN".toList 4 w.toList,
      indexedName "DOUT".toList 4 w.toList with
    | some k, _, _, _ => some (.key (Fin.ofNat 8 k))
    | _, some k, _, _ => some (.iv (Fin.ofNat 4 k))
    | _, _, some k, _ => some (.din (Fin.ofNat 4 k))
    | _, _, _, some k => some (.dout (Fin.ofNat 4 k))
    | none, none, none, none => none

/-- The mode a name stands for (30_encoding.md R84). -/
def modeNamed (w : String) : Option Mode :=
  if w = "ecb" then some .ecb
  else if w = "cbc" then some .cbc
  else if w = "cfb" then some .cfb
  else if w = "ofb" then some .ofb
  else if w = "ctr" then some .ctr
  else none

/-- `enc` is DIR = 1, `dec` is DIR = 0 (30_encoding.md R84). -/
def dirNamed (w : String) : Option Bool :=
  if w = "enc" then some true else if w = "dec" then some false else none

/-- The number after a prefix such as `key=`, below a bound. -/
def optionValue (name : String) (bound : Nat) (w : String) : Option Nat :=
  if name.toList.isPrefixOf w.toList then
    numberBelow bound (String.ofList (w.toList.drop name.toList.length))
  else none

/-- INIT's operands after its mode and direction: `[, key=<klen>][, iv=<ivlen>]` (30_encoding.md R84). -/
def initOptions (ws : List String) : Option (Option (BitVec 6) × Option (BitVec 5)) :=
  match ws with
  | [] => some (none, none)
  | [a] =>
    match optionValue "key=" 64 a, optionValue "iv=" 32 a with
    | some k, _ => some (some (BitVec.ofNat 6 k), none)
    | none, some v => some (none, some (BitVec.ofNat 5 v))
    | none, none => none
  | [a, b] =>
    match optionValue "key=" 64 a, optionValue "iv=" 32 b with
    | some k, some v => some (some (BitVec.ofNat 6 k), some (BitVec.ofNat 5 v))
    | _, _ => none
  | _ => none

/-- The command form of a line's words; COUNT is 0 to 16, because `.illegal` is the only way to spell an illegal word
(30_encoding.md R84). -/
def readForm (ws : List String) : Option CmdForm :=
  match ws with
  | op :: args =>
    if op = "nop" ∧ args = [] then some .nop
    else if op = "final" ∧ args = [] then some .final
    else if op = "zeroize" ∧ args = [] then some .zeroize
    else
      match args with
      | [a] =>
        if op = "update" then (numberBelow 17 a).map fun n => .update (BitVec.ofNat 5 n)
        else if op = "block" then (numberBelow 17 a).map fun n => .block (BitVec.ofNat 5 n)
        else if op = ".illegal" then (numberBelow (2 ^ 32) a).map fun n => .illegal (BitVec.ofNat 32 n)
        else none
      | m :: d :: opts =>
        if op = "init" then
          match modeNamed m, dirNamed d, initOptions opts with
          | some m, some d, some (k, v) => some (.init m d k v)
          | _, _, _ => none
        else none
      | [] => none
  | [] => none

/-- Hex digits two by two as bytes; an odd number of digits is no byte sequence (log 16). -/
def hexBytes (cs : List Char) : Option (List Byte) :=
  match cs with
  | [] => some []
  | a :: b :: rest =>
    match digitsValue 16 [a, b], hexBytes rest with
    | some n, some bs => some (BitVec.ofNat 8 n :: bs)
    | _, _ => none
  | [_] => none

/-- Hex bytes of a length that `ok` accepts. -/
def hexOperand (ok : Nat → Bool) (w : String) : Option (List Byte) :=
  match hexBytes w.toList with
  | some bs => if ok bs.length then some bs else none
  | none => none

/-- The accesses of one line, for the OUTLEN that a `getout` on it would read; an empty line or a comment is no access
(30_encoding.md R84, R85). A command form on its own is its CMD write. That
`setkey`, `setdin` and `feed` want an operand of at least one byte is the model's choice (log 16): R85 bounds the length
only above, and gives an empty operand no spelling. -/
def assembleLine (outlen : Nat) (line : String) : Option (List HostOp) :=
  match lineWords line.toList with
  | [] => some []
  | op :: args =>
    if op = "poll" ∧ args = [] then some [.poll]
    else if op = "getout" ∧ args = [] then some (getOutOps outlen)
    else if op = "cmd" then (readForm args).map cmdOps
    else
      match readForm (op :: args) with
      | some f => some [wrReg .cmd f.word]
      | none =>
        match args with
        | [a] =>
          if op = "rd" then (regNamed a).map fun r => [rdReg r]
          else if op = "setkey" then (hexOperand (fun n => n ≤ 32) a).map setKeyOps
          else if op = "setiv" then (hexOperand (fun n => n == 16) a).map setIvOps
          else if op = "setdin" then (hexOperand (fun n => n ≤ 16) a).map setDinOps
          else if op = "feed" then (hexOperand (fun n => n ≤ 16) a).map feedOps
          else none
        | [a, b] =>
          if op = "wr" then
            match regNamed a, numberBelow (2 ^ 32) b with
            | some r, some v => some [wrReg r (BitVec.ofNat 32 v)]
            | _, _ => none
          else none
        | _ => none

end Sys2Proof.Machine
end

