-- ==== Sys2Proof/Machine/Platform.lean ====
section
/-! DEFINITION. Platform: how a host address reaches an instance. BASE_ADDR and the number of instances are arguments, as
00_scope.md R9 asks: a platform is a list of instances, each with its own base address and its own state
(log 15). -/

namespace Sys2Proof.Machine

/-- One AESKC instance of a platform, at its BASE_ADDR (00_scope.md R9, 60_exceptions.md R212). -/
structure Placed where
  base : Nat
  state : State
deriving DecidableEq, Repr

/-- The window offset of a host address: the window is BASE_ADDR + 0x00 to BASE_ADDR + 0x7F, and the instance never sees
any other address (20_memory.md R50, R53). -/
def windowOffset (base addr : Nat) : Option Offset :=
  if base ≤ addr ∧ addr < base + Config.windowBytes then some (BitVec.ofNat 7 (addr - base)) else none

/-- An access the host issues at an address: it joins the accesses of the instance whose window holds the address, after
those issued before it (20_memory.md R59), and an instance whose window does not hold the address does not see it
(60_exceptions.md R212). -/
def Placed.receive (p : Placed) (addr : Nat) (op : Offset → HostOp) : Placed :=
  match windowOffset p.base addr with
  | some off => { p with state := { p.state with host := p.state.host ++ [op off] } }
  | none => p

/-- The platform after the host issues a read at `addr` (20_memory.md R50). Where windows overlap, every instance whose window
holds the address gets the read: the model's choice (log 15), since 00_scope.md R9 and 60_exceptions.md R212 say nothing
of overlap. -/
def issueRead (ps : List Placed) (addr size : Nat) : List Placed :=
  ps.map fun p => p.receive addr fun off => .rd off size

/-- The platform after the host issues a write at `addr` (20_memory.md R50); overlapping windows as for a read (log 15). -/
def issueWrite (ps : List Placed) (addr size : Nat) (v : Word) : List Placed :=
  ps.map fun p => p.receive addr fun off => .wr off size v

end Sys2Proof.Machine
end

