-- ==== Sys2Proof/Safety.lean ====
section
/-! DEFINITION. Safety: the terms claims are made in: the invariants of 10_state.md R40, a finished run, what the window shows of a
state, and the streams of commands a host issues. -/

namespace Sys2Proof.Machine

/-- ACC[j] = 0 for every j ≥ FILL (10_state.md R40 item 1; FILL ≤ 15 is its type). -/
abbrev AccTailZero (s : State) : Prop := ∀ j : Fin 16, s.fill.val ≤ j.val → s.acc[j.val] = 0

/-- KEYED = 0 exactly when NR = 0 (10_state.md R40 item 2; the other values of NR are its type). -/
abbrev KeyedIffRounds (s : State) : Prop := s.keyed = false ↔ s.nr = .zero

/-- READY = 1 implies KEYED = 1 (10_state.md R40 item 3; MODE ≤ 4 is its type). -/
abbrev ReadyKeyed (s : State) : Prop := s.ready = true → s.keyed = true

/-- READY = 0 implies FILL = 0 (10_state.md R40 item 4). -/
abbrev ClosedEmpty (s : State) : Prop := s.ready = false → s.fill.val = 0

/-- DOUT[j] = 0 for every j ≥ OUTLEN (10_state.md R40 item 5; OUTLEN ≤ 16 is its type). -/
abbrev DoutTailZero (s : State) : Prop := ∀ j : Fin 16, s.outlen.val ≤ j.val → s.dout[j.val] = 0

/-- The number of words of W in use: 4·(NR+1) when KEYED = 1, else none (10_state.md R40 item 7). -/
def usedWords (s : State) : Nat := if s.keyed then 4 * (roundCount s.nr + 1) else 0

/-- W[j] = 0 above the words in use (10_state.md R40 item 7). -/
abbrev ScheduleTailZero (s : State) : Prop := ∀ j : Fin 60, usedWords s ≤ j.val → s.w[j.val] = 0

/-- The invariants of 10_state.md R40 (item 6, ERR is one of 0..6, is the type of `err`). -/
abbrev StateInv (s : State) : Prop :=
  AccTailZero s ∧ KeyedIffRounds s ∧ ReadyKeyed s ∧ ClosedEmpty s ∧ DoutTailZero s ∧ ScheduleTailZero s

/-- KEYED = 1 exactly when W and NR hold the expansion of a legal key; otherwise W is all zero and NR = 0
(10_state.md R30, R35, R36). -/
def HoldsSchedule (s : State) : Prop :=
  (s.keyed = true ∧ ∃ (key : KeyBytes) (klen : BitVec 6),
      keyLenLegal klen = true ∧ (s.w, s.nr) = keyExpansion key klen.toNat) ∨
  (s.keyed = false ∧ s.w = Vector.replicate 60 0 ∧ s.nr = .zero)

/-- A run is finished: the host issues nothing more and no command is in flight (70_reset_and_hazards.md R242). -/
def Finished (s : State) : Prop := s.host = [] ∧ s.busy = false

/-- The output bytes of the most recent command, DOUT[0..OUTLEN-1] (10_state.md R24). -/
def State.output (s : State) : List Byte := s.dout.toList.take s.outlen.val

/-- Two states that agree on every element a register of the window exposes: all of 10_state.md R20 but KEYIN, W, IVCFG, FB
and ACC (60_exceptions.md R210). -/
def SameVisible (s t : State) : Prop :=
  s.ivIn = t.ivIn ∧ s.din = t.din ∧ s.dout = t.dout ∧ s.qlen = t.qlen ∧ s.nr = t.nr ∧ s.keyed = t.keyed ∧
  s.mode = t.mode ∧ s.dir = t.dir ∧ s.ready = t.ready ∧ s.fill = t.fill ∧ s.err = t.err ∧ s.outlen = t.outlen ∧
  s.inflight = t.inflight

/-- Two states that agree on the elements the running stream lives in: the key schedule, the mode, the feedback register and
the accumulator. -/
def SameStream (s t : State) : Prop :=
  s.w = t.w ∧ s.nr = t.nr ∧ s.keyed = t.keyed ∧ s.mode = t.mode ∧ s.dir = t.dir ∧ s.ready = t.ready ∧
  s.ivcfg = t.ivcfg ∧ s.fb = t.fb ∧ s.acc = t.acc ∧ s.fill = t.fill

/-- A chunk of a stream: what the host writes to DIN, and the COUNT of the UPDATE it then issues. -/
abbrev Chunk := Block × BitVec 5

/-- The input bytes of a list of chunks, in order (43_stream.md R177). -/
def chunkBytes (cs : List Chunk) : List Byte := cs.flatMap fun c => c.1.toList.take c.2.toNat

/-- Every chunk has at most 16 bytes (43_stream.md R177). -/
def ChunksLegal (cs : List Chunk) : Prop := ∀ c ∈ cs, c.2.toNat ≤ 16

/-- The command `i` run to its completion, and its output bytes after those collected so far. -/
def collect (i : Instr) (r : State × List Byte) : State × List Byte :=
  match exec i r.1 with
  | .next t => (t, r.2 ++ t.output)
  | .fault _ => r
  | .refused _ => r

/-- One UPDATE per chunk, each with DIN holding the chunk, and the output in order (43_stream.md R177). -/
def feedStream (s : State) (cs : List Chunk) : State × List Byte :=
  cs.foldl (fun r c => collect (.update c.2) ({ r.1 with din := c.1 }, r.2)) (s, [])

/-- A stream of UPDATEs ended by FINAL, and its whole output: the streams of the mode laws (42_modes.md R162 items 1 and 2,
43_stream.md R177, 70_reset_and_hazards.md R234). -/
def runStream (s : State) (cs : List Chunk) : State × List Byte := collect .final (feedStream s cs)

/-- The whole output of a stream from its INIT on: INIT, then one UPDATE per chunk, then FINAL (42_modes.md R162 item 1,
70_reset_and_hazards.md R234). -/
def initStream (mode : Mode) (dir lk li : Bool) (klen : BitVec 6) (ivlen : BitVec 5) (s : State) (cs : List Chunk) :
    List Byte :=
  (runStream (collect (.init mode dir lk li klen ivlen) (s, [])).1 cs).2

/-- The output blocks of one `block 16` per block, each with DIN holding the block (42_modes.md R160; the block streams of
the mode laws, R162 items 3 to 5). -/
def blockStream (s : State) (xs : List Block) : List Block :=
  match xs with
  | [] => []
  | x :: rest =>
    match exec (.block 16) { s with din := x } with
    | .next t => t.dout :: blockStream t rest
    | .fault _ => []
    | .refused _ => []

/-- `f` applied `n` times: the keystream K_0, K_1, … of OFB is E, E∘E, … of the IV (42_modes.md R162 item 3). -/
def iterate (f : Block → Block) (n : Nat) (x : Block) : Block :=
  match n with
  | 0 => x
  | k + 1 => f (iterate f k x)

/-- The counter increment byte by byte, from byte `n - 1` down: add 1, and carry on while the byte became 0
(42_modes.md R159). -/
def incBytes (n : Nat) (b : Block) : Block :=
  match n with
  | 0 => b
  | k + 1 =>
    let b' := b.setIfInBounds k (b[k]?.getD 0 + 1)
    if b'[k]?.getD 0 ≠ 0 then b' else incBytes k b'

end Sys2Proof.Machine
end

