-- ==== Sys2Proof/Certificates/Slice0/Obligations.lean ====
section
/-! DEFINITION. Obligations: the statements about AESKC that the provers prove. Each docstring names the rules it formalises. -/

open Sys2Proof Sys2Proof.Machine

/-! ## Encoding -/

/-- Command words of 95_test_vectors.md V24 decode to the commands they are listed for, and 0x00000007 (V24's illegal
word) is reserved. -/
def Obligations.ListedCommandWordsDecode : Prop :=
  decodeWord 0x00000000 = .nop ∧
  decodeWord 0x00004101 = .init .ecb false true false 16 0 ∧
  decodeWord 0x00106321 = .init .cfb false true true 24 16 ∧
  decodeWord 0x00100291 = .init .cbc true false true 0 16 ∧
  decodeWord 0x00000102 = .update 16 ∧
  decodeWord 0x00000003 = .final ∧
  decodeWord 0x00000104 = .block 16 ∧
  decodeWord 0x00000005 = .zeroize ∧
  decodeWord 0x00000007 = .reserved 7

/-- Every well-formed command is what its own word decodes to (30_encoding.md R71 to R79). -/
def Obligations.DecodeOfEncode : Prop :=
  ∀ i : Instr, i.wellFormed = true → decodeWord (encode i) = i

/-- Every 32-bit word decodes to a well-formed command whose word it is: no bit of a word is dropped (30_encoding.md
R79). -/
def Obligations.EncodeOfDecode : Prop :=
  ∀ c : Word, encode (decodeWord c) = c ∧ (decodeWord c).wellFormed = true

/-- 30_encoding.md R78: the decoder of R79 accepts exactly the words that some row of the opcode map accepts. -/
def Obligations.LegalExactlyByOpcodeMap : Prop :=
  ∀ c : Word, (∀ w : Word, decodeWord c ≠ .reserved w) ↔
    ∃ r ∈ opcodeMap, c &&& r.mask = r.matchBits ∧ r.further.holds c = true

/-- 30_encoding.md R80: the four kinds of illegal word, and that an illegal word completes with ERR_CMD and changes no
state except the completion record. -/
def Obligations.IllegalWordsCompleteWithErrCmd : Prop :=
  ∀ c : Word,
    (decodeWord c = .reserved c ↔
      6 ≤ (c.extractLsb' 0 4).toNat ∨
      ((c.extractLsb' 0 4).toNat ∈ [0, 3, 5] ∧ c.extractLsb' 4 28 ≠ 0) ∨
      ((c.extractLsb' 0 4).toNat ∈ [2, 4] ∧ c.extractLsb' 9 23 ≠ 0) ∨
      ((c.extractLsb' 0 4).toNat = 1 ∧ c.extractLsb' 21 11 ≠ 0) ∨
      ((c.extractLsb' 0 4).toNat = 1 ∧ 5 ≤ (c.extractLsb' 4 3).toNat) ∨
      ((c.extractLsb' 0 4).toNat ∈ [2, 4] ∧ 17 ≤ (c.extractLsb' 4 5).toNat)) ∧
    ∀ s : State, exec (.reserved c) s =
      .next { s with err := .cmd, outlen := 0, dout := Vector.replicate 16 0, inflight := none }

/-- 30_encoding.md R77: when LK = 0 KLEN is not examined, when LI = 0 IVLEN is not examined: the command does what it
does with that field 0. The disassembly has `key=` only when LK = 1 and `iv=` only when LI = 1. -/
def Obligations.DontCareFieldsAreIgnored : Prop :=
  ∀ (mode : Mode) (dir li lk : Bool) (klen : BitVec 6) (ivlen : BitVec 5) (s : State),
    exec (.init mode dir false li klen ivlen) s = exec (.init mode dir false li 0 ivlen) s ∧
    exec (.init mode dir lk false klen ivlen) s = exec (.init mode dir lk false klen 0) s ∧
    formOf (.init mode dir lk li klen ivlen) =
      .init mode dir (if lk then some klen else none) (if li then some ivlen else none)

/-- 30_encoding.md R85 with R77: a disassembled word, assembled again, does in every state what the word does, and an
illegal word is printed as itself. -/
def Obligations.DisassemblyAssemblesToTheSameCommand : Prop :=
  ∀ c : Word,
    (∀ s : State, exec (decodeWord (disassemble c).word) s = exec (decodeWord c) s) ∧
    (legalWord c = false → disassemble c = .illegal c)

/-! ## A step, the bus and the busy protocol -/

/-- A step runs the decoded command: when the word `c` is in flight and due, a STATUS read (alone, or as a `poll`'s)
runs exec of what `c` decodes to, on the state with the access taken from the host's list, and returns the STATUS of
the state after it. -/
def Obligations.StepRunsTheCommandInFlight : Prop :=
  ∀ (s t : State) (c : Word) (rest : List HostOp),
    s.inflight = some ⟨c, 0⟩ → s.host = .rd 0x08 4 :: rest ∨ s.host = .poll :: rest →
    exec (decodeWord c) { s with host := rest } = .next t →
    step s = .next { t with rdata := t.statusWord }

/-- Every command, in every state, comes to a next state, and BUSY is 0 in it (60_exceptions.md R200, R202). -/
def Obligations.EveryCommandCompletes : Prop :=
  ∀ (i : Instr) (s : State), ∃ t : State, exec i s = .next t ∧ t.busy = false

/-- A write to CMD while BUSY = 0 sets BUSY to 1 for the written word and changes no other element (10_state.md R28,
20_memory.md R57, 30_encoding.md R70). -/
def Obligations.CmdWriteIssuesOneCommand : Prop :=
  ∀ (s : State) (v : Word) (rest : List HostOp),
    s.busy = false → s.host = .wr 0x04 4 v :: rest →
    ∃ n d : Nat, step s = .next { s with host := rest, inflight := some ⟨v, n⟩, draws := d }

/-- A STATUS read that finds the command still executing returns BUSY = 1 and leaves every element as it was
(10_state.md R28). -/
def Obligations.StatusReadWhileExecuting : Prop :=
  ∀ (s : State) (c : Word) (n : Nat) (rest : List HostOp),
    s.inflight = some ⟨c, n + 1⟩ → s.host = .rd 0x08 4 :: rest →
    ∃ (v : Word) (d : Nat), v.getLsbD 0 = true ∧
      step s = .next { s with host := rest, inflight := some ⟨c, n⟩, rdata := v, draws := d }

/-- A poll comes to its end: if `n` more STATUS reads find the command executing, after `n + 1` steps the poll is
over, the command's effects are in the state, and the last read returned the complete STATUS after it (10_state.md
R28). -/
def Obligations.PollEndsWithTheCommandCompleted : Prop :=
  ∀ (s u : State) (c : Word) (n : Nat) (rest : List HostOp),
    s.inflight = some ⟨c, n⟩ → s.host = .poll :: rest → exec (decodeWord c) s = .next u →
    ∃ d : Nat, Sys2Proof.core.run (n + 1) s =
      Host.Outcome.next { u with host := rest, rdata := u.statusWord, draws := d }

/-- 20_memory.md R52 and R53: while BUSY = 0, an access that is not 4 bytes wide, or misaligned, or at a reserved
offset is the fault BusError, and every other access comes to a next state. -/
def Obligations.BusErrorExactlyOnIllegalAccesses : Prop :=
  ∀ (s : State) (off : Offset) (size : Nat) (v : Word) (rest : List HostOp), s.busy = false →
    ((size ≠ 4 ∨ off.toNat % 4 ≠ 0 ∨ off.toNat ∈ [0x18, 0x1C, 0x70, 0x74, 0x78, 0x7C]) →
      step { s with host := .rd off size :: rest } = .fault (.busError off) ∧
      step { s with host := .wr off size v :: rest } = .fault (.busError off)) ∧
    (¬(size ≠ 4 ∨ off.toNat % 4 ≠ 0 ∨ off.toNat ∈ [0x18, 0x1C, 0x70, 0x74, 0x78, 0x7C]) →
      (∃ t, step { s with host := .rd off size :: rest } = .next t) ∧
      ∃ t, step { s with host := .wr off size v :: rest } = .next t)

/-- 20_memory.md R60: while BUSY = 1, every access but a 4-byte read of STATUS is the fault BusyViolation. That a
misaligned, wrong-width or reserved access is BusyViolation too, and not BusError, is the model's choice (log 7). -/
def Obligations.BusyViolationExactlyOffStatus : Prop :=
  ∀ (s : State) (off : Offset) (size : Nat) (v : Word) (rest : List HostOp), s.busy = true →
    step { s with host := .wr off size v :: rest } = .fault (.busyViolation off) ∧
    (¬(off = 0x08 ∧ size = 4) → step { s with host := .rd off size :: rest } = .fault (.busyViolation off)) ∧
    ∃ t, step { s with host := .rd 0x08 4 :: rest } = .next t

/-- A read while BUSY = 0 changes nothing but the word the host gets: ID is constant, CMD and KEY0..KEY7 read as 0,
and the other registers read as their contents (20_memory.md R51, R54, R57). -/
def Obligations.IdleReadsHaveNoSideEffect : Prop :=
  ∀ (s : State) (rest : List HostOp), s.busy = false →
    step { s with host := .rd 0x00 4 :: rest } = .next { s with host := rest, rdata := 0x41455307 } ∧
    step { s with host := .rd 0x04 4 :: rest } = .next { s with host := rest, rdata := 0 } ∧
    step { s with host := .rd 0x08 4 :: rest } = .next { s with host := rest, rdata := s.statusWord } ∧
    step { s with host := .rd 0x0C 4 :: rest } = .next { s with host := rest, rdata := s.qlen.zeroExtend 32 } ∧
    (∀ k : Fin 8, step { s with host := .rd (BitVec.ofNat 7 (0x20 + 4 * k.val)) 4 :: rest } =
      .next { s with host := rest, rdata := 0 }) ∧
    ∀ k : Fin 4,
      step { s with host := .rd (BitVec.ofNat 7 (0x40 + 4 * k.val)) 4 :: rest } =
        .next { s with host := rest, rdata := packWord s.ivIn k.val } ∧
      step { s with host := .rd (BitVec.ofNat 7 (0x50 + 4 * k.val)) 4 :: rest } =
        .next { s with host := rest, rdata := packWord s.din k.val } ∧
      step { s with host := .rd (BitVec.ofNat 7 (0x60 + 4 * k.val)) 4 :: rest } =
        .next { s with host := rest, rdata := packWord s.dout k.val }

/-- 20_memory.md R54: while BUSY = 0 a write to a read-only register (ID, STATUS, OSIZE, USIZE, DOUT0..DOUT3) is
ignored, without a bus error; a read of a write-only register (CMD, KEY0..KEY7) returns 0; a write to QLEN stores
v[30:0]. -/
def Obligations.AccessKindsOfRegisters : Prop :=
  ∀ (s : State) (off : Offset) (v : Word) (rest : List HostOp), s.busy = false →
    (off.toNat ∈ [0x00, 0x08, 0x10, 0x14, 0x60, 0x64, 0x68, 0x6C] →
      step { s with host := .wr off 4 v :: rest } = .next { s with host := rest }) ∧
    (off.toNat ∈ [0x04, 0x20, 0x24, 0x28, 0x2C, 0x30, 0x34, 0x38, 0x3C] →
      step { s with host := .rd off 4 :: rest } = .next { s with host := rest, rdata := 0 }) ∧
    step { s with host := .wr 0x0C 4 v :: rest } = .next { s with host := rest, qlen := v.extractLsb' 0 31 }

/-- 20_memory.md R55: word k of a byte array carries bytes 4k to 4k+3, the lower-numbered byte in the more significant
position, both when it is read and when it is written; no other byte is written. -/
def Obligations.BytePackingIsBigEndian : Prop :=
  ∀ (n : Nat) (b : Vector Byte n) (k : Nat) (v : Word), 4 * k + 3 < n →
    (∀ j : Fin 4, (packWord b k).extractLsb' (24 - 8 * j.val) 8 = b[4 * k + j.val]?.getD 0) ∧
    (∀ i : Nat, (storeWord b k v)[i]?.getD 0 =
      if i / 4 = k then v.extractLsb' (24 - 8 * (i % 4)) 8 else b[i]?.getD 0) ∧
    packWord (storeWord b k v) k = v

/-- A write to KEYk, IVk, DINk or QLEN stores its data and changes nothing else; bit 31 of a QLEN write is ignored
(20_memory.md R54, R57). -/
def Obligations.OperandWritesStoreTheirData : Prop :=
  ∀ (s : State) (v : Word) (rest : List HostOp), s.busy = false →
    step { s with host := .wr 0x0C 4 v :: rest } = .next { s with host := rest, qlen := v.extractLsb' 0 31 } ∧
    (∀ k : Fin 8, step { s with host := .wr (BitVec.ofNat 7 (0x20 + 4 * k.val)) 4 v :: rest } =
      .next { s with host := rest, keyIn := storeWord s.keyIn k.val v }) ∧
    ∀ k : Fin 4,
      step { s with host := .wr (BitVec.ofNat 7 (0x40 + 4 * k.val)) 4 v :: rest } =
        .next { s with host := rest, ivIn := storeWord s.ivIn k.val v } ∧
      step { s with host := .wr (BitVec.ofNat 7 (0x50 + 4 * k.val)) 4 v :: rest } =
        .next { s with host := rest, din := storeWord s.din k.val v }

/-- 43_stream.md R175 and R176: OSIZE is the exact sum QLEN + FILL, USIZE its whole-block part, and neither wraps; the
reads at 0x10 and 0x14 return them. -/
def Obligations.SizeRegistersAreExact : Prop :=
  ∀ (s : State) (rest : List HostOp), s.busy = false →
    ∃ a b : Word,
      step { s with host := .rd 0x10 4 :: rest } = .next { s with host := rest, rdata := a } ∧
      step { s with host := .rd 0x14 4 :: rest } = .next { s with host := rest, rdata := b } ∧
      a.toNat = s.qlen.toNat + s.fill.val ∧ a.toNat ≤ 0x8000000E ∧
      b.toNat = (s.qlen.toNat + s.fill.val) / 16 * 16

/-- 10_state.md R27: every field of STATUS stands at its bits, the reserved bits read as 0, and a write to STATUS is
ignored. The numbers that stand in ERR, MODE and NR are those of 60_exceptions.md R201, 30_encoding.md R74 and
10_state.md R35. -/
def Obligations.StatusWordLayout : Prop :=
  errNumber .ok = 0 ∧ errNumber .keyLen = 1 ∧ errNumber .param = 2 ∧ errNumber .input = 3 ∧ errNumber .dataLen = 4 ∧
  errNumber .state = 5 ∧ errNumber .cmd = 6 ∧
  Mode.ecb.code = 0 ∧ Mode.cbc.code = 1 ∧ Mode.cfb.code = 2 ∧ Mode.ofb.code = 3 ∧ Mode.ctr.code = 4 ∧
  roundCount .zero = 0 ∧ roundCount .ten = 10 ∧ roundCount .twelve = 12 ∧ roundCount .fourteen = 14 ∧
  ∀ s : State,
    s.statusWord.getLsbD 0 = s.busy ∧ s.statusWord.getLsbD 1 = s.ready ∧ s.statusWord.getLsbD 2 = s.keyed ∧
    s.statusWord.getLsbD 3 = s.dir ∧ s.statusWord.extractLsb' 4 3 = s.mode.code ∧ s.statusWord.getLsbD 7 = false ∧
    s.statusWord.extractLsb' 8 4 = errNumber s.err ∧ (s.statusWord.extractLsb' 12 4).toNat = s.fill.val ∧
    (s.statusWord.extractLsb' 16 5).toNat = s.outlen.val ∧ s.statusWord.extractLsb' 21 3 = 0 ∧
    (s.statusWord.extractLsb' 24 4).toNat = roundCount s.nr ∧ s.statusWord.extractLsb' 28 4 = 0 ∧
    ∀ (v : Word) (rest : List HostOp), s.busy = false →
      step { s with host := .wr 0x08 4 v :: rest } = .next { s with host := rest }

/-- 70_reset_and_hazards.md R230 and R231: the reset event puts every element at its reset value, at any point of a
run, a command in flight included. The host's list, the word of its last read and the draw counter are the model's own
fields; that they stay is the model's choice (log 8). -/
def Obligations.ResetReplacesTheWholeRecord : Prop :=
  ∀ (s : State) (rest : List HostOp), s.host = .reset :: rest →
    step s = .next {
      keyIn := Vector.replicate 32 0, ivIn := Vector.replicate 16 0, din := Vector.replicate 16 0,
      dout := Vector.replicate 16 0, qlen := 0, w := Vector.replicate 60 0, nr := .zero, keyed := false, mode := .ecb,
      dir := false, ready := false, ivcfg := Vector.replicate 16 0, fb := Vector.replicate 16 0,
      acc := Vector.replicate 16 0, fill := 0, err := .ok, outlen := 0, inflight := none,
      host := rest, rdata := s.rdata, draws := s.draws }

/-- 70_reset_and_hazards.md R232: after reset STATUS reads 0, ID reads 0x41455307, every other register reads 0. -/
def Obligations.RegistersAfterReset : Prop :=
  State.reset.readReg .id = 0x41455307 ∧ State.reset.readReg .status = 0 ∧
  ∀ r : Reg, r ≠ .id → State.reset.readReg r = 0

/-! ## The engine -/

/-- 40_aes_engine.md R102: xtime(b) = {02} • b, and {03} • b and {0E} • b are the XORs of repeated xtime it gives. -/
def Obligations.XtimeIsMultiplicationByTwo : Prop :=
  ∀ b : Byte, gfMul 0x02 b = xtime b ∧ gfMul 0x03 b = xtime b ^^^ b ∧
    gfMul 0x0E b = xtime (xtime (xtime b)) ^^^ xtime (xtime b) ^^^ xtime b

/-- 40_aes_engine.md R103: inv(00) = 00, and for b ≠ 00, inv(b) is the unique c with b • c = 01. -/
def Obligations.FieldInverseIsUnique : Prop :=
  gfInv 0 = 0 ∧ ∀ b : Byte, b ≠ 0 → gfMul b (gfInv b) = 1 ∧ ∀ c : Byte, gfMul b c = 1 → c = gfInv b

/-- 40_aes_engine.md R104: each entry of the S-box table is the affine image of the inverse, bit by bit. -/
def Obligations.SboxIsAffineImageOfInverse : Prop :=
  ∀ (a : Byte) (i : Fin 8), (sbox a).getLsbD i.val =
    ((gfInv a).getLsbD i.val ^^ (gfInv a).getLsbD ((i.val + 4) % 8) ^^ (gfInv a).getLsbD ((i.val + 5) % 8) ^^
      (gfInv a).getLsbD ((i.val + 6) % 8) ^^ (gfInv a).getLsbD ((i.val + 7) % 8) ^^ (0x63#8).getLsbD i.val)

/-- 40_aes_engine.md R105: InvS is the inverse permutation of S. -/
def Obligations.InverseSboxUndoesSbox : Prop :=
  ∀ a : Byte, invSbox (sbox a) = a ∧ sbox (invSbox a) = a

/-- 40_aes_engine.md R110: the words of KeyExpansion satisfy the expansion's equations: key words, then W[i] = W[i-Nk]
XOR temp with the SubWord steps at i mod Nk = 0 and, for Nk = 8, at i mod 8 = 4, then zeros; NR = Nk + 6. -/
def Obligations.KeyExpansionEquations : Prop :=
  ∀ (key : KeyBytes) (nk : Nat), nk = 4 ∨ nk = 6 ∨ nk = 8 →
    let w := (keyExpansion key (4 * nk)).1
    roundCount (keyExpansion key (4 * nk)).2 = nk + 6 ∧
    (∀ i, i < nk → wordAt w i = packWord key i) ∧
    (∀ i, nk ≤ i → i < 4 * (nk + 7) →
      wordAt w i = wordAt w (i - nk) ^^^
        (if i % nk = 0 then subWord (rotWord (wordAt w (i - 1))) ^^^ rcon (i / nk)
         else if nk = 8 ∧ i % nk = 4 then subWord (wordAt w (i - 1))
         else wordAt w (i - 1))) ∧
    ∀ i, 4 * (nk + 7) ≤ i → wordAt w i = 0

/-- 40_aes_engine.md R111: RK(r)[4c+j] is byte j, from the most significant, of W[4r+c], and RK(0) of an expanded key
is its first 16 bytes. -/
def Obligations.RoundKeysAreBigEndianWords : Prop :=
  (∀ (w : Schedule) (r : Nat) (c j : Fin 4), (roundKey w r)[4 * c.val + j.val]?.getD 0 =
    (wordAt w (4 * r + c.val)).extractLsb' (24 - 8 * j.val) 8) ∧
  ∀ (key : KeyBytes) (nk : Nat), nk = 4 ∨ nk = 6 ∨ nk = 8 →
    (roundKey (keyExpansion key (4 * nk)).1 0).toList = key.toList.take 16

/-- 40_aes_engine.md R115: the byte indices that ShiftRows and InvShiftRows take their bytes from, in order. -/
def Obligations.ShiftRowsPermutation : Prop :=
  ∀ s : Block,
    (shiftRows s).toList = [0, 5, 10, 15, 4, 9, 14, 3, 8, 13, 2, 7, 12, 1, 6, 11].map (fun i => s[i]?.getD 0) ∧
    (invShiftRows s).toList = [0, 13, 10, 7, 4, 1, 14, 11, 8, 5, 2, 15, 12, 9, 6, 3].map (fun i => s[i]?.getD 0)

/-- 40_aes_engine.md R116 and R117: the equations of MixColumns and of InvMixColumns for each column, and that each
undoes the other, for every state. -/
def Obligations.InvMixColumnsUndoesMixColumns : Prop :=
  ∀ s : Block,
    (∀ c : Fin 4,
      let b (t : Block) (r : Nat) : Byte := t[4 * c.val + r]?.getD 0
      b (mixColumns s) 0 = gfMul 0x02 (b s 0) ^^^ gfMul 0x03 (b s 1) ^^^ b s 2 ^^^ b s 3 ∧
      b (mixColumns s) 1 = b s 0 ^^^ gfMul 0x02 (b s 1) ^^^ gfMul 0x03 (b s 2) ^^^ b s 3 ∧
      b (mixColumns s) 2 = b s 0 ^^^ b s 1 ^^^ gfMul 0x02 (b s 2) ^^^ gfMul 0x03 (b s 3) ∧
      b (mixColumns s) 3 = gfMul 0x03 (b s 0) ^^^ b s 1 ^^^ b s 2 ^^^ gfMul 0x02 (b s 3) ∧
      b (invMixColumns s) 0 = gfMul 0x0E (b s 0) ^^^ gfMul 0x0B (b s 1) ^^^ gfMul 0x0D (b s 2) ^^^ gfMul 0x09 (b s 3) ∧
      b (invMixColumns s) 1 = gfMul 0x09 (b s 0) ^^^ gfMul 0x0E (b s 1) ^^^ gfMul 0x0B (b s 2) ^^^ gfMul 0x0D (b s 3) ∧
      b (invMixColumns s) 2 = gfMul 0x0D (b s 0) ^^^ gfMul 0x09 (b s 1) ^^^ gfMul 0x0E (b s 2) ^^^ gfMul 0x0B (b s 3) ∧
      b (invMixColumns s) 3 = gfMul 0x0B (b s 0) ^^^ gfMul 0x0D (b s 1) ^^^ gfMul 0x09 (b s 2) ^^^ gfMul 0x0E (b s 3)) ∧
    invMixColumns (mixColumns s) = s ∧ mixColumns (invMixColumns s) = s

/-- 40_aes_engine.md R120: AES_D undoes AES_E and AES_E undoes AES_D, for every schedule, round count and block. -/
def Obligations.InverseCipherUndoesCipher : Prop :=
  ∀ (w : Schedule) (nr : Rounds) (x : Block), aesD w nr (aesE w nr x) = x ∧ aesE w nr (aesD w nr x) = x

/-! ## Modes and BLOCK -/

/-- 42_modes.md R151 to R158: the block out and the new FB of ModeBlock in each mode and direction, and that it writes
FB and nothing else (R150). -/
def Obligations.ModeBlockTable : Prop :=
  ∀ (s : State) (x : Block),
    let k := aesE s.w s.nr s.fb
    (s.mode = .ecb → s.dir = true → modeBlock s x = (aesE s.w s.nr x, s)) ∧
    (s.mode = .ecb → s.dir = false → modeBlock s x = (aesD s.w s.nr x, s)) ∧
    (s.mode = .cbc → s.dir = true →
      modeBlock s x = (aesE s.w s.nr (xorBlock x s.fb), { s with fb := aesE s.w s.nr (xorBlock x s.fb) })) ∧
    (s.mode = .cbc → s.dir = false → modeBlock s x = (xorBlock (aesD s.w s.nr x) s.fb, { s with fb := x })) ∧
    (s.mode = .cfb → s.dir = true → modeBlock s x = (xorBlock x k, { s with fb := xorBlock x k })) ∧
    (s.mode = .cfb → s.dir = false → modeBlock s x = (xorBlock x k, { s with fb := x })) ∧
    (s.mode = .ofb → modeBlock s x = (xorBlock x k, { s with fb := k })) ∧
    (s.mode = .ctr → modeBlock s x = (xorBlock x k, { s with fb := inc128 s.fb }))

/-- 42_modes.md R159: Inc128 adds 1 to int128 modulo 2^128, and the byte-by-byte carry gives the same block. -/
def Obligations.CounterIncrementIsFullWidth : Prop :=
  ∀ b : Block, int128 (inc128 b) = (int128 b + 1) % 2 ^ 128 ∧ inc128 b = incBytes 16 b

/-- 42_modes.md R160: BLOCK n for every legal COUNT; a BLOCK word with COUNT 17 to 31 or a reserved bit set is
ERR_CMD. With no open stream it is ERR_STATE, with fewer than 16 bytes ERR_INPUT, each without any other effect; else
it puts ModeBlock(DIN) into DOUT, updates FB, and touches nothing else. -/
def Obligations.BlockProcessesDin : Prop :=
  ∀ (s : State) (n : BitVec 5), n.toNat ≤ 16 →
    (∀ c : Word, c.extractLsb' 0 4 = 4 → c.extractLsb' 9 23 ≠ 0 ∨ 17 ≤ (c.extractLsb' 4 5).toNat →
      exec (decodeWord c) s = .next { s with
        err := .cmd, outlen := 0, dout := Vector.replicate 16 0, inflight := none }) ∧
    (s.ready = false → exec (.block n) s = .next { s with
      err := .state, outlen := 0, dout := Vector.replicate 16 0, inflight := none }) ∧
    (s.ready = true → n.toNat < 16 → exec (.block n) s = .next { s with
      err := .input, outlen := 0, dout := Vector.replicate 16 0, inflight := none }) ∧
    (s.ready = true → n.toNat = 16 → exec (.block n) s = .next { s with
      fb := (modeBlock s s.din).2.fb, dout := (modeBlock s s.din).1, outlen := 16, err := .ok, inflight := none })

/-- 10_state.md R29: which commands open and close a stream, and that UPDATE, BLOCK and FINAL, and only they, fail
with ERR_STATE, exactly when READY = 0. -/
def Obligations.StreamsOpenAndClose : Prop :=
  ∀ (i : Instr) (s t : State), exec i s = .next t →
    let isInit := ∃ mode dir lk li klen ivlen, i = .init mode dir lk li klen ivlen
    (s.ready = false → t.ready = true → isInit ∧ t.err = .ok) ∧
    (s.ready = true → t.ready = false →
      i = .final ∨ i = .zeroize ∨ (isInit ∧ (t.err = .keyLen ∨ t.err = .param))) ∧
    (isInit → t.err = .ok → t.ready = true) ∧
    (i = .final ∨ i = .zeroize ∨ t.err = .keyLen ∨ t.err = .param → t.ready = false) ∧
    (t.err = .state ↔
      s.ready = false ∧ (i = .final ∨ ∃ n : BitVec 5, n.toNat ≤ 16 ∧ (i = .update n ∨ i = .block n)))

/-- 42_modes.md R162 item 1, at the block primitive: for every key schedule, feedback value and mode, decrypting block
by block what was encrypted block by block gives the blocks back. -/
def Obligations.BlockStreamRoundTrip : Prop :=
  ∀ (s : State) (xs : List Block), s.ready = true →
    blockStream { s with dir := false } (blockStream { s with dir := true } xs) = xs

/-- 42_modes.md R162 item 1, for the streaming commands: a decrypt stream fed with the whole output of an encrypt
stream, in any chunks, gives the input back; any length for CFB, OFB and CTR, a multiple of 16 for ECB and CBC. Said
of streams on an open state, and of whole streams from their INIT on, with the same key and IV. -/
def Obligations.StreamRoundTrip : Prop :=
  (∀ (s : State) (cs ds : List Chunk), s.ready = true → s.fill.val = 0 → ChunksLegal cs → ChunksLegal ds →
    (needsWholeBlocks s.mode = true → (chunkBytes cs).length % 16 = 0) →
    chunkBytes ds = (runStream { s with dir := true } cs).2 →
    (runStream { s with dir := false } ds).2 = chunkBytes cs) ∧
  ∀ (s : State) (mode : Mode) (lk li : Bool) (klen : BitVec 6) (ivlen : BitVec 5) (cs ds : List Chunk),
    initError s mode lk li klen ivlen = none → ChunksLegal cs → ChunksLegal ds →
    (needsWholeBlocks mode = true → (chunkBytes cs).length % 16 = 0) →
    chunkBytes ds = initStream mode true lk li klen ivlen s cs →
    initStream mode false lk li klen ivlen s ds = chunkBytes cs

/-- 42_modes.md R162 item 2, and its like for OFB: in CTR and OFB the encrypt and the decrypt stream are the same
function. -/
def Obligations.CtrAndOfbIgnoreDirection : Prop :=
  ∀ (s : State) (cs : List Chunk), s.mode = .ctr ∨ s.mode = .ofb →
    (runStream { s with dir := true } cs).2 = (runStream { s with dir := false } cs).2

/-- 42_modes.md R162 item 3: in OFB output block i is input block i XOR K_i, where K_0, K_1, … is E(FB), E(E(FB)), …,
in both directions and for any data. -/
def Obligations.OfbKeystreamIsIterated : Prop :=
  ∀ (s : State) (xs : List Block) (i : Nat) (x : Block), s.ready = true → s.mode = .ofb → xs[i]? = some x →
    (blockStream s xs)[i]? = some (xorBlock x (iterate (aesE s.w s.nr) (i + 1) s.fb))

/-- 42_modes.md R162 item 4: in CFB decryption, a change of ciphertext block i changes only plaintext blocks i and
i+1, and block i in exactly the changed bit positions. -/
def Obligations.CfbErrorPropagation : Prop :=
  ∀ (s : State) (xs : List Block) (i : Nat) (x x' y y' : Block), s.ready = true → s.mode = .cfb → s.dir = false →
    xs[i]? = some x → (blockStream s xs)[i]? = some y → (blockStream s (xs.set i x'))[i]? = some y' →
    xorBlock y y' = xorBlock x x' ∧
    ∀ j, j ≠ i → j ≠ i + 1 → (blockStream s (xs.set i x'))[j]? = (blockStream s xs)[j]?

/-- 42_modes.md R162 item 5: in CBC decryption, a change of ciphertext block i changes only plaintext blocks i and
i+1. -/
def Obligations.CbcErrorPropagation : Prop :=
  ∀ (s : State) (xs : List Block) (i : Nat) (x' : Block), s.ready = true → s.mode = .cbc → s.dir = false →
    ∀ j, j ≠ i → j ≠ i + 1 → (blockStream s (xs.set i x'))[j]? = (blockStream s xs)[j]?

/-! ## The accumulator -/

/-- 43_stream.md R170 and R171: UPDATE n for every legal COUNT; an UPDATE word with COUNT 17 to 31 or a reserved bit
set is ERR_CMD. With no open stream it is ERR_STATE and nothing else. Else, with FILL = k: below 16 bytes in all it
appends; from 16 on it processes ACC[0..k-1] || DIN[0..15-k] as one block and leaves DIN[16-k..n-1] in a cleared
accumulator. FILL becomes (k + n) mod 16, and nothing else changes but FB and the completion record. -/
def Obligations.UpdateAppendsAndDrains : Prop :=
  ∀ (s : State) (n : BitVec 5), n.toNat ≤ 16 →
    let k := s.fill.val
    let full : Block := Vector.ofFn fun j => if j.val < k then s.acc[j] else s.din[j.val - k]
    (∀ c : Word, c.extractLsb' 0 4 = 2 → c.extractLsb' 9 23 ≠ 0 ∨ 17 ≤ (c.extractLsb' 4 5).toNat →
      exec (decodeWord c) s = .next { s with
        err := .cmd, outlen := 0, dout := Vector.replicate 16 0, inflight := none }) ∧
    (s.ready = false →
      exec (.update n) s = .next { s with
        err := .state, outlen := 0, dout := Vector.replicate 16 0, inflight := none }) ∧
    (s.ready = true → k + n.toNat < 16 →
      exec (.update n) s = .next { s with
        acc := Vector.ofFn fun j => if k ≤ j.val ∧ j.val < k + n.toNat then s.din[j.val - k] else s.acc[j],
        fill := Fin.ofNat 16 (k + n.toNat), err := .ok, outlen := 0, dout := Vector.replicate 16 0,
        inflight := none }) ∧
    (s.ready = true → 16 ≤ k + n.toNat →
      exec (.update n) s = .next { s with
        fb := (modeBlock s full).2.fb,
        acc := Vector.ofFn fun j => if j.val < k + n.toNat - 16 then s.din[16 - k + j.val]?.getD 0 else 0,
        fill := Fin.ofNat 16 (k + n.toNat - 16), err := .ok, outlen := 16, dout := (modeBlock s full).1,
        inflight := none })

/-- 43_stream.md R172: FINAL, whose only word is 0x00000003, in each case of its rule. With no open stream it is
ERR_STATE and nothing else; else the completion code, the output bytes and OUTLEN, the stream closed, the accumulator
cleared, FB reloaded from IVCFG, and nothing else changed. -/
def Obligations.FinalFlushesAndCloses : Prop :=
  (∀ c : Word, decodeWord c = .final ↔ c = 3) ∧ ∀ s : State,
    let closed := { s with ready := false, acc := Vector.replicate 16 0, fill := 0, fb := s.ivcfg, inflight := none }
    (s.ready = false → exec .final s = .next { s with
      err := .state, outlen := 0, dout := Vector.replicate 16 0, inflight := none }) ∧
    (s.ready = true → s.fill.val = 0 →
      exec .final s = .next { closed with err := .ok, outlen := 0, dout := Vector.replicate 16 0 }) ∧
    (s.ready = true → s.fill.val ≠ 0 → s.mode = .ecb ∨ s.mode = .cbc →
      exec .final s = .next { closed with err := .dataLen, outlen := 0, dout := Vector.replicate 16 0 }) ∧
    (s.ready = true → s.fill.val ≠ 0 → s.mode = .cfb ∨ s.mode = .ofb ∨ s.mode = .ctr →
      exec .final s = .next { closed with
        err := .ok, outlen := Fin.ofNat 17 s.fill.val,
        dout := Vector.ofFn fun j =>
          if j.val < s.fill.val then s.acc[j] ^^^ (aesE s.w s.nr s.fb)[j] else 0 })

/-- 43_stream.md R177: the output of a stream and the state after it depend only on the input bytes and the state it
started from, not on how the input is cut into chunks. (DIN, which the host writes, is set aside.) -/
def Obligations.ChunkingDoesNotMatter : Prop :=
  ∀ (s : State) (cs ds : List Chunk) (d : Block), s.ready = true → ChunksLegal cs → ChunksLegal ds →
    chunkBytes cs = chunkBytes ds →
    (runStream s cs).2 = (runStream s ds).2 ∧
    { (runStream s cs).1 with din := d } = { (runStream s ds).1 with din := d }

/-- 43_stream.md R178: the total output of a stream ended by FINAL. In CFB, OFB and CTR it is as long as the input; in
ECB and CBC FINAL succeeds exactly when the input is whole blocks, and the output is the whole-block part. -/
def Obligations.StreamOutputLength : Prop :=
  ∀ (s : State) (cs : List Chunk), s.ready = true → s.fill.val = 0 → ChunksLegal cs →
    let len := (chunkBytes cs).length
    (needsWholeBlocks s.mode = false → (runStream s cs).1.err = .ok ∧ (runStream s cs).2.length = len) ∧
    (needsWholeBlocks s.mode = true →
      (runStream s cs).2.length = len / 16 * 16 ∧
      (len % 16 = 0 → (runStream s cs).1.err = .ok) ∧ (len % 16 ≠ 0 → (runStream s cs).1.err = .dataLen))

/-- 43_stream.md R175 and R176 as the source's size queries: UPDATEs that carry QLEN more bytes put out exactly USIZE
bytes, and with FINAL at most OSIZE bytes, exactly OSIZE when FINAL succeeds. -/
def Obligations.SizeQueriesPredictTheOutput : Prop :=
  ∀ (s : State) (cs : List Chunk), s.ready = true → ChunksLegal cs → (chunkBytes cs).length = s.qlen.toNat →
    (feedStream s cs).2.length = s.usize.toNat ∧
    (runStream s cs).2.length ≤ s.osize.toNat ∧
    ((runStream s cs).1.err = .ok → (runStream s cs).2.length = s.osize.toNat)

/-! ## INIT and the control commands -/

/-- 41_init.md R140 and R142: when every check passes, INIT loads the schedule of KEYIN[0..KLEN-1] if LK = 1 and the
IV if LI = 1, reloads FB from IVCFG, fixes MODE and DIR, empties the accumulator and opens the stream; nothing else
changes. -/
def Obligations.InitOpensAStream : Prop :=
  ∀ (s : State) (mode : Mode) (dir lk li : Bool) (klen : BitVec 6) (ivlen : BitVec 5),
    (lk = true → klen.toNat = 16 ∨ klen.toNat = 24 ∨ klen.toNat = 32) → (li = true → mode ≠ .ecb) →
    (li = true → ivlen.toNat = 16) → (lk = false → s.keyed = true) →
    exec (.init mode dir lk li klen ivlen) s = .next { s with
      w := if lk then (keyExpansion s.keyIn klen.toNat).1 else s.w,
      nr := if lk then (keyExpansion s.keyIn klen.toNat).2 else s.nr,
      keyed := true,
      ivcfg := if li then s.ivIn else s.ivcfg,
      fb := if li then s.ivIn else s.ivcfg,
      mode := mode, dir := dir, acc := Vector.replicate 16 0, fill := 0, ready := true,
      err := .ok, outlen := 0, dout := Vector.replicate 16 0, inflight := none }

/-- 41_init.md R141 and R143 and 60_exceptions.md R204: INIT's failures, the code by the order of the checks, and
their effect: the stream closed, the accumulator emptied, nothing else but the completion record. Before all checks,
any illegal word (an INIT word with MODE above 4 or a reserved bit included) is ERR_CMD and changes nothing else;
UPDATE, BLOCK and FINAL with READY = 0 are ERR_STATE, whatever COUNT, FILL and MODE are; then BLOCK with COUNT below
16 is ERR_INPUT, and FINAL with bytes buffered in ECB or CBC ERR_DATALEN. -/
def Obligations.InitFailuresInOrder : Prop :=
  ∀ (s : State) (mode : Mode) (dir lk li : Bool) (klen : BitVec 6) (ivlen : BitVec 5),
    let failed (code : ErrCode) : State := { s with
      ready := false, acc := Vector.replicate 16 0, fill := 0, err := code, outlen := 0,
      dout := Vector.replicate 16 0, inflight := none }
    let badKeyLen := lk = true ∧ klen.toNat ≠ 16 ∧ klen.toNat ≠ 24 ∧ klen.toNat ≠ 32
    let badParam := (li = true ∧ mode = .ecb) ∨ (li = true ∧ ivlen.toNat ≠ 16) ∨ (lk = false ∧ s.keyed = false)
    let reports (i : Instr) (code : ErrCode) := ∃ t : State, exec i s = .next t ∧ t.err = code
    (badKeyLen → exec (.init mode dir lk li klen ivlen) s = .next (failed .keyLen)) ∧
    (¬badKeyLen → badParam → exec (.init mode dir lk li klen ivlen) s = .next (failed .param)) ∧
    (∀ c : Word, legalWord c = false → exec (decodeWord c) s =
      .next { s with err := .cmd, outlen := 0, dout := Vector.replicate 16 0, inflight := none }) ∧
    (∀ n : BitVec 5, n.toNat ≤ 16 → s.ready = false → reports (.update n) .state ∧ reports (.block n) .state) ∧
    (s.ready = false → reports .final .state) ∧
    (∀ n : BitVec 5, n.toNat < 16 → s.ready = true → reports (.block n) .input) ∧
    (s.ready = true → s.fill.val ≠ 0 → s.mode = .ecb ∨ s.mode = .cbc → reports .final .dataLen)

/-- 41_init.md R142 and R144: what a successful INIT opens depends only on its operands. From two states that agree on
KEYIN[0..KLEN-1] when LK = 1, on W, NR and KEYED when LK = 0, on IVIN when LI = 1 and on IVCFG when LI = 0, the new
streams are the same, whatever was processed before, and so are the completion codes. -/
def Obligations.ReinitForgetsTheEarlierStream : Prop :=
  ∀ (s t s' t' : State) (mode : Mode) (dir lk li : Bool) (klen : BitVec 6) (ivlen : BitVec 5),
    (lk = true → s.keyIn.toList.take klen.toNat = t.keyIn.toList.take klen.toNat) →
    (lk = false → s.w = t.w ∧ s.nr = t.nr ∧ s.keyed = t.keyed) →
    (li = true → s.ivIn = t.ivIn) → (li = false → s.ivcfg = t.ivcfg) →
    exec (.init mode dir lk li klen ivlen) s = .next s' → exec (.init mode dir lk li klen ivlen) t = .next t' →
    s'.ready = true → SameStream s' t' ∧ s'.err = t'.err

/-- 44_control.md R190: NOP, whose only word is 0x00000000, changes the completion record and nothing else. -/
def Obligations.NopClearsTheCompletionRecord : Prop :=
  (∀ c : Word, decodeWord c = .nop ↔ c = 0) ∧ ∀ s : State, exec .nop s =
    .next { s with err := .ok, outlen := 0, dout := Vector.replicate 16 0, inflight := none }

/-- 44_control.md R191: ZEROIZE, whose only word is 0x00000005, returns every element to its reset value, STATUS reads
0 after it, KEYIN, IVIN and DIN included (log 9 on 20_memory.md R62). That the model's own fields (the host's list,
the word of its last read, the draw counter) stay is the model's choice (log 1, log 5, log 6). -/
def Obligations.ZeroizeReturnsToReset : Prop :=
  (∀ c : Word, decodeWord c = .zeroize ↔ c = 5) ∧ ∀ s : State, ∃ t : State, exec .zeroize s = .next t ∧
    t = { State.reset with host := s.host, rdata := s.rdata, draws := s.draws } ∧ t.statusWord = 0

/-! ## The whole machine -/

/-- The invariants of 10_state.md R40 and the schedule invariant of R30 hold right after reset. -/
def Obligations.InvariantsAtReset : Prop :=
  StateInv State.reset ∧ HoldsSchedule State.reset

/-- 10_state.md R40: every step keeps the invariants, from every state that meets them. -/
def Obligations.StepKeepsInvariants : Prop :=
  ∀ s t : State, StateInv s → step s = .next t → StateInv t

/-- 10_state.md R30, R35 and R36: every step keeps that KEYED = 1 exactly when W and NR hold the expansion of a legal
key. -/
def Obligations.StepKeepsKeySchedule : Prop :=
  ∀ s t : State, HoldsSchedule s → step s = .next t → HoldsSchedule t

/-- 60_exceptions.md R203: a command that completes with a code other than OK leaves no output. -/
def Obligations.NoPartialOutput : Prop :=
  ∀ (i : Instr) (s t : State), exec i s = .next t → t.err ≠ .ok →
    t.outlen.val = 0 ∧ t.dout = Vector.replicate 16 0

/-- 60_exceptions.md R205: what each error changes beyond the completion record. -/
def Obligations.ErrorEffects : Prop :=
  ∀ (i : Instr) (s t : State), exec i s = .next t →
    (t.err = .cmd ∨ t.err = .state ∨ t.err = .input →
      t = { s with err := t.err, outlen := t.outlen, dout := t.dout, inflight := t.inflight }) ∧
    (t.err = .keyLen ∨ t.err = .param →
      t = { s with err := t.err, outlen := t.outlen, dout := t.dout, inflight := t.inflight,
                   ready := false, acc := Vector.replicate 16 0, fill := 0 }) ∧
    (t.err = .dataLen →
      t = { s with err := t.err, outlen := t.outlen, dout := t.dout, inflight := t.inflight,
                   ready := false, acc := Vector.replicate 16 0, fill := 0, fb := s.ivcfg })

/-- 10_state.md R31, R36, R37 and 40_aes_engine.md R112: the key schedule changes only by a successful INIT with LK =
1 or by ZEROIZE, IVCFG only by a successful INIT with LI = 1 or by ZEROIZE, MODE and DIR only by a successful INIT or
by ZEROIZE. -/
def Obligations.OnlyInitAndZeroizeReconfigure : Prop :=
  ∀ (i : Instr) (s t : State), exec i s = .next t → i ≠ .zeroize →
    ((t.w, t.nr, t.keyed) ≠ (s.w, s.nr, s.keyed) →
      t.err = .ok ∧ ∃ mode dir li klen ivlen, i = .init mode dir true li klen ivlen) ∧
    (t.ivcfg ≠ s.ivcfg → t.err = .ok ∧ ∃ mode dir lk klen ivlen, i = .init mode dir lk true klen ivlen) ∧
    ((t.mode, t.dir) ≠ (s.mode, s.dir) → t.err = .ok ∧ ∃ lk li klen ivlen, i = .init t.mode t.dir lk li klen ivlen)

/-- 10_state.md R21 to R23, R25: no command but ZEROIZE changes KEYIN, IVIN, DIN or QLEN, and that ZEROIZE may is log
9 on 20_memory.md R62. That no command at all touches the host's list, the word of its last read or the draw counter,
the model's own fields, is the model's choice (log 1, log 5, log 6). -/
def Obligations.CommandsLeaveOperandRegisters : Prop :=
  ∀ (i : Instr) (s t : State), exec i s = .next t →
    t.host = s.host ∧ t.rdata = s.rdata ∧ t.draws = s.draws ∧
    (i ≠ .zeroize → t.keyIn = s.keyIn ∧ t.ivIn = s.ivIn ∧ t.din = s.din ∧ t.qlen = s.qlen)

/-- 60_exceptions.md R210 and 70_reset_and_hazards.md R243, for reads while BUSY = 0: two states that differ only in
KEYIN, W, IVCFG, FB and ACC hold the same in every register of the window, and every host read, legal or not, shows
the same in both. (A STATUS read while BUSY = 1 returns fields that are a free value of the whole state: log 4.) -/
def Obligations.WindowHidesSecrets : Prop :=
  ∀ (s t : State), SameVisible s t →
    (∀ r : Reg, s.readReg r = t.readReg r) ∧
    (s.busy = false → ∀ (off : Offset) (size : Nat) (rest : List HostOp),
      (∃ v : Word,
        step { s with host := .rd off size :: rest } = .next { s with host := rest, rdata := v } ∧
        step { t with host := .rd off size :: rest } = .next { t with host := rest, rdata := v }) ∨
      (step { s with host := .rd off size :: rest } = .fault (.busError off) ∧
        step { t with host := .rd off size :: rest } = .fault (.busError off)))

/-- 60_exceptions.md R212 and 20_memory.md R50: an access at an address in the window of one instance reaches that
instance at the address's offset, and leaves an instance with a disjoint window as it was. -/
def Obligations.InstancesAreIndependent : Prop :=
  ∀ (p q : Placed) (addr size : Nat) (v : Word), p.base ≤ addr → addr < p.base + 128 →
    q.base + 128 ≤ p.base ∨ p.base + 128 ≤ q.base →
    ∃ off : Offset, off.toNat = addr - p.base ∧
      issueRead [p, q] addr size =
        [{ p with state := { p.state with host := p.state.host ++ [.rd off size] } }, q] ∧
      issueWrite [p, q] addr size v =
        [{ p with state := { p.state with host := p.state.host ++ [.wr off size v] } }, q]
end

