-- ==== Sys2Proof/Laws/Encoding.lean ====
section
/-! SUPPORT. Laws of the encoders: the bits of a field put at its place, and the bits of each format's word. -/

namespace Sys2Proof

/-- Bit `i` of a field put at bit `lo`. -/
theorem fieldAt_getLsbD {n : Nat} (lo : Nat) (x : BitVec n) (i : Nat) :
    (fieldAt lo x).getLsbD i = (decide (i < 32) && decide (lo ≤ i) && x.getLsbD (i - lo)) := by
  simp only [fieldAt, BitVec.getLsbD_shiftLeft, BitVec.getLsbD_setWidth]
  have h : i - lo < 32 ∨ ¬i < 32 := by omega
  rcases h with h | h <;> by_cases h2 : lo ≤ i <;> simp [h, h2, Nat.not_lt.mpr, Nat.lt_of_not_le]

/-- Bit `i` of a one-bit field at bit `lo`. -/
theorem flagAt_getLsbD (lo : Nat) (b : Bool) (i : Nat) :
    (flagAt lo b).getLsbD i = (decide (i < 32) && decide (i = lo) && b) := by
  rw [flagAt, fieldAt_getLsbD]
  by_cases h : i = lo
  · subst h; cases b <;> simp
  · by_cases h2 : lo ≤ i
    · have : i - lo ≠ 0 := by omega
      cases b <;> simp [h, this]
    · simp [h, h2]

/-- The bits of a word of format N (30_encoding.md R71). -/
theorem encodeN_getLsbD (opc : BitVec 4) (i : Nat) :
    (encodeN opc).getLsbD i = (decide (i < 32) && opc.getLsbD i) := by
  simp [encodeN, fieldAt_getLsbD]

/-- The bits of a word of format C (30_encoding.md R72). -/
theorem encodeC_getLsbD (opc : BitVec 4) (n : BitVec 5) (i : Nat) :
    (encodeC opc n).getLsbD i =
      ((decide (i < 32) && decide (4 ≤ i) && n.getLsbD (i - 4)) || (decide (i < 32) && opc.getLsbD i)) := by
  simp [encodeC, fieldAt_getLsbD]

/-- The bits of a word of format I (30_encoding.md R73). -/
theorem encodeI_getLsbD (mode : Mode) (dir lk li : Bool) (klen : BitVec 6) (ivlen : BitVec 5) (i : Nat) :
    (encodeI mode dir lk li klen ivlen).getLsbD i = (decide (i < 32) &&
      (decide (16 ≤ i) && ivlen.getLsbD (i - 16) || decide (10 ≤ i) && klen.getLsbD (i - 10) || decide (i = 9) && li
        || decide (i = 8) && lk || decide (i = 7) && dir || decide (4 ≤ i) && mode.code.getLsbD (i - 4)
        || (1#4).getLsbD i)) := by
  simp only [encodeI, BitVec.getLsbD_or, fieldAt_getLsbD, flagAt_getLsbD]
  by_cases h : i < 32 <;> simp [h]

/-- MODE of a mode's code is the mode (30_encoding.md R74). -/
@[simp] theorem Mode.ofCode_code (m : Mode) : Mode.ofCode m.code = some m := by cases m <;> rfl

/-- A MODE field names a mode exactly when it is at most 4 (30_encoding.md R74). -/
theorem Mode.ofCode_cases (b : BitVec 3) :
    (b.toNat ≤ 4 ∧ ∃ m, Mode.ofCode b = some m ∧ m.code = b) ∨ (5 ≤ b.toNat ∧ Mode.ofCode b = none) := by
  revert b
  decide

end Sys2Proof
end

