-- ==== Sys2Proof/Laws/State.lean ====
section
/-! SUPPORT. Laws of State: one lemma per field per update, so that no later proof unfolds a record update. -/

namespace Sys2Proof.Machine

variable (s : State)

/-! `complete` -/

@[simp] theorem complete_keyIn (code : ErrCode) (out : List Byte) : (s.complete code out).keyIn = s.keyIn := rfl
@[simp] theorem complete_ivIn (code : ErrCode) (out : List Byte) : (s.complete code out).ivIn = s.ivIn := rfl
@[simp] theorem complete_din (code : ErrCode) (out : List Byte) : (s.complete code out).din = s.din := rfl
@[simp] theorem complete_dout (code : ErrCode) (out : List Byte) : (s.complete code out).dout = padBlock out := rfl
@[simp] theorem complete_qlen (code : ErrCode) (out : List Byte) : (s.complete code out).qlen = s.qlen := rfl
@[simp] theorem complete_w (code : ErrCode) (out : List Byte) : (s.complete code out).w = s.w := rfl
@[simp] theorem complete_nr (code : ErrCode) (out : List Byte) : (s.complete code out).nr = s.nr := rfl
@[simp] theorem complete_keyed (code : ErrCode) (out : List Byte) : (s.complete code out).keyed = s.keyed := rfl
@[simp] theorem complete_mode (code : ErrCode) (out : List Byte) : (s.complete code out).mode = s.mode := rfl
@[simp] theorem complete_dir (code : ErrCode) (out : List Byte) : (s.complete code out).dir = s.dir := rfl
@[simp] theorem complete_ready (code : ErrCode) (out : List Byte) : (s.complete code out).ready = s.ready := rfl
@[simp] theorem complete_ivcfg (code : ErrCode) (out : List Byte) : (s.complete code out).ivcfg = s.ivcfg := rfl
@[simp] theorem complete_fb (code : ErrCode) (out : List Byte) : (s.complete code out).fb = s.fb := rfl
@[simp] theorem complete_acc (code : ErrCode) (out : List Byte) : (s.complete code out).acc = s.acc := rfl
@[simp] theorem complete_fill (code : ErrCode) (out : List Byte) : (s.complete code out).fill = s.fill := rfl
@[simp] theorem complete_err (code : ErrCode) (out : List Byte) : (s.complete code out).err = code := rfl
@[simp] theorem complete_outlen (code : ErrCode) (out : List Byte) : (s.complete code out).outlen = Fin.ofNat 17 out.length := rfl
@[simp] theorem complete_inflight (code : ErrCode) (out : List Byte) : (s.complete code out).inflight = none := rfl
@[simp] theorem complete_host (code : ErrCode) (out : List Byte) : (s.complete code out).host = s.host := rfl
@[simp] theorem complete_rdata (code : ErrCode) (out : List Byte) : (s.complete code out).rdata = s.rdata := rfl
@[simp] theorem complete_draws (code : ErrCode) (out : List Byte) : (s.complete code out).draws = s.draws := rfl

/-! `raiseError` -/

@[simp] theorem raiseError_keyIn (code : ErrCode) : (s.raiseError code).keyIn = s.keyIn := rfl
@[simp] theorem raiseError_ivIn (code : ErrCode) : (s.raiseError code).ivIn = s.ivIn := rfl
@[simp] theorem raiseError_din (code : ErrCode) : (s.raiseError code).din = s.din := rfl
@[simp] theorem raiseError_dout (code : ErrCode) : (s.raiseError code).dout = padBlock [] := rfl
@[simp] theorem raiseError_qlen (code : ErrCode) : (s.raiseError code).qlen = s.qlen := rfl
@[simp] theorem raiseError_w (code : ErrCode) : (s.raiseError code).w = s.w := rfl
@[simp] theorem raiseError_nr (code : ErrCode) : (s.raiseError code).nr = s.nr := rfl
@[simp] theorem raiseError_keyed (code : ErrCode) : (s.raiseError code).keyed = s.keyed := rfl
@[simp] theorem raiseError_mode (code : ErrCode) : (s.raiseError code).mode = s.mode := rfl
@[simp] theorem raiseError_dir (code : ErrCode) : (s.raiseError code).dir = s.dir := rfl
@[simp] theorem raiseError_ready (code : ErrCode) : (s.raiseError code).ready = s.ready := rfl
@[simp] theorem raiseError_ivcfg (code : ErrCode) : (s.raiseError code).ivcfg = s.ivcfg := rfl
@[simp] theorem raiseError_fb (code : ErrCode) : (s.raiseError code).fb = s.fb := rfl
@[simp] theorem raiseError_acc (code : ErrCode) : (s.raiseError code).acc = s.acc := rfl
@[simp] theorem raiseError_fill (code : ErrCode) : (s.raiseError code).fill = s.fill := rfl
@[simp] theorem raiseError_err (code : ErrCode) : (s.raiseError code).err = code := rfl
@[simp] theorem raiseError_outlen (code : ErrCode) : (s.raiseError code).outlen = 0 := rfl
@[simp] theorem raiseError_inflight (code : ErrCode) : (s.raiseError code).inflight = none := rfl
@[simp] theorem raiseError_host (code : ErrCode) : (s.raiseError code).host = s.host := rfl
@[simp] theorem raiseError_rdata (code : ErrCode) : (s.raiseError code).rdata = s.rdata := rfl
@[simp] theorem raiseError_draws (code : ErrCode) : (s.raiseError code).draws = s.draws := rfl

/-! `clearAcc` -/

@[simp] theorem clearAcc_keyIn : (s.clearAcc).keyIn = s.keyIn := rfl
@[simp] theorem clearAcc_ivIn : (s.clearAcc).ivIn = s.ivIn := rfl
@[simp] theorem clearAcc_din : (s.clearAcc).din = s.din := rfl
@[simp] theorem clearAcc_dout : (s.clearAcc).dout = s.dout := rfl
@[simp] theorem clearAcc_qlen : (s.clearAcc).qlen = s.qlen := rfl
@[simp] theorem clearAcc_w : (s.clearAcc).w = s.w := rfl
@[simp] theorem clearAcc_nr : (s.clearAcc).nr = s.nr := rfl
@[simp] theorem clearAcc_keyed : (s.clearAcc).keyed = s.keyed := rfl
@[simp] theorem clearAcc_mode : (s.clearAcc).mode = s.mode := rfl
@[simp] theorem clearAcc_dir : (s.clearAcc).dir = s.dir := rfl
@[simp] theorem clearAcc_ready : (s.clearAcc).ready = s.ready := rfl
@[simp] theorem clearAcc_ivcfg : (s.clearAcc).ivcfg = s.ivcfg := rfl
@[simp] theorem clearAcc_fb : (s.clearAcc).fb = s.fb := rfl
@[simp] theorem clearAcc_acc : (s.clearAcc).acc = zeroBlock := rfl
@[simp] theorem clearAcc_fill : (s.clearAcc).fill = 0 := rfl
@[simp] theorem clearAcc_err : (s.clearAcc).err = s.err := rfl
@[simp] theorem clearAcc_outlen : (s.clearAcc).outlen = s.outlen := rfl
@[simp] theorem clearAcc_inflight : (s.clearAcc).inflight = s.inflight := rfl
@[simp] theorem clearAcc_host : (s.clearAcc).host = s.host := rfl
@[simp] theorem clearAcc_rdata : (s.clearAcc).rdata = s.rdata := rfl
@[simp] theorem clearAcc_draws : (s.clearAcc).draws = s.draws := rfl

/-! `closeStream` -/

@[simp] theorem closeStream_keyIn : (s.closeStream).keyIn = s.keyIn := rfl
@[simp] theorem closeStream_ivIn : (s.closeStream).ivIn = s.ivIn := rfl
@[simp] theorem closeStream_din : (s.closeStream).din = s.din := rfl
@[simp] theorem closeStream_dout : (s.closeStream).dout = s.dout := rfl
@[simp] theorem closeStream_qlen : (s.closeStream).qlen = s.qlen := rfl
@[simp] theorem closeStream_w : (s.closeStream).w = s.w := rfl
@[simp] theorem closeStream_nr : (s.closeStream).nr = s.nr := rfl
@[simp] theorem closeStream_keyed : (s.closeStream).keyed = s.keyed := rfl
@[simp] theorem closeStream_mode : (s.closeStream).mode = s.mode := rfl
@[simp] theorem closeStream_dir : (s.closeStream).dir = s.dir := rfl
@[simp] theorem closeStream_ready : (s.closeStream).ready = false := rfl
@[simp] theorem closeStream_ivcfg : (s.closeStream).ivcfg = s.ivcfg := rfl
@[simp] theorem closeStream_fb : (s.closeStream).fb = s.fb := rfl
@[simp] theorem closeStream_acc : (s.closeStream).acc = zeroBlock := rfl
@[simp] theorem closeStream_fill : (s.closeStream).fill = 0 := rfl
@[simp] theorem closeStream_err : (s.closeStream).err = s.err := rfl
@[simp] theorem closeStream_outlen : (s.closeStream).outlen = s.outlen := rfl
@[simp] theorem closeStream_inflight : (s.closeStream).inflight = s.inflight := rfl
@[simp] theorem closeStream_host : (s.closeStream).host = s.host := rfl
@[simp] theorem closeStream_rdata : (s.closeStream).rdata = s.rdata := rfl
@[simp] theorem closeStream_draws : (s.closeStream).draws = s.draws := rfl

/-! `openStream` -/

@[simp] theorem openStream_keyIn (mode : Mode) (dir : Bool) : (s.openStream mode dir).keyIn = s.keyIn := rfl
@[simp] theorem openStream_ivIn (mode : Mode) (dir : Bool) : (s.openStream mode dir).ivIn = s.ivIn := rfl
@[simp] theorem openStream_din (mode : Mode) (dir : Bool) : (s.openStream mode dir).din = s.din := rfl
@[simp] theorem openStream_dout (mode : Mode) (dir : Bool) : (s.openStream mode dir).dout = s.dout := rfl
@[simp] theorem openStream_qlen (mode : Mode) (dir : Bool) : (s.openStream mode dir).qlen = s.qlen := rfl
@[simp] theorem openStream_w (mode : Mode) (dir : Bool) : (s.openStream mode dir).w = s.w := rfl
@[simp] theorem openStream_nr (mode : Mode) (dir : Bool) : (s.openStream mode dir).nr = s.nr := rfl
@[simp] theorem openStream_keyed (mode : Mode) (dir : Bool) : (s.openStream mode dir).keyed = s.keyed := rfl
@[simp] theorem openStream_mode (mode : Mode) (dir : Bool) : (s.openStream mode dir).mode = mode := rfl
@[simp] theorem openStream_dir (mode : Mode) (dir : Bool) : (s.openStream mode dir).dir = dir := rfl
@[simp] theorem openStream_ready (mode : Mode) (dir : Bool) : (s.openStream mode dir).ready = true := rfl
@[simp] theorem openStream_ivcfg (mode : Mode) (dir : Bool) : (s.openStream mode dir).ivcfg = s.ivcfg := rfl
@[simp] theorem openStream_fb (mode : Mode) (dir : Bool) : (s.openStream mode dir).fb = s.ivcfg := rfl
@[simp] theorem openStream_acc (mode : Mode) (dir : Bool) : (s.openStream mode dir).acc = zeroBlock := rfl
@[simp] theorem openStream_fill (mode : Mode) (dir : Bool) : (s.openStream mode dir).fill = 0 := rfl
@[simp] theorem openStream_err (mode : Mode) (dir : Bool) : (s.openStream mode dir).err = s.err := rfl
@[simp] theorem openStream_outlen (mode : Mode) (dir : Bool) : (s.openStream mode dir).outlen = s.outlen := rfl
@[simp] theorem openStream_inflight (mode : Mode) (dir : Bool) : (s.openStream mode dir).inflight = s.inflight := rfl
@[simp] theorem openStream_host (mode : Mode) (dir : Bool) : (s.openStream mode dir).host = s.host := rfl
@[simp] theorem openStream_rdata (mode : Mode) (dir : Bool) : (s.openStream mode dir).rdata = s.rdata := rfl
@[simp] theorem openStream_draws (mode : Mode) (dir : Bool) : (s.openStream mode dir).draws = s.draws := rfl

/-! `clearElements` -/

@[simp] theorem clearElements_keyIn : (s.clearElements).keyIn = Vector.replicate 32 0 := rfl
@[simp] theorem clearElements_ivIn : (s.clearElements).ivIn = Vector.replicate 16 0 := rfl
@[simp] theorem clearElements_din : (s.clearElements).din = Vector.replicate 16 0 := rfl
@[simp] theorem clearElements_dout : (s.clearElements).dout = Vector.replicate 16 0 := rfl
@[simp] theorem clearElements_qlen : (s.clearElements).qlen = 0 := rfl
@[simp] theorem clearElements_w : (s.clearElements).w = Vector.replicate 60 0 := rfl
@[simp] theorem clearElements_nr : (s.clearElements).nr = .zero := rfl
@[simp] theorem clearElements_keyed : (s.clearElements).keyed = false := rfl
@[simp] theorem clearElements_mode : (s.clearElements).mode = .ecb := rfl
@[simp] theorem clearElements_dir : (s.clearElements).dir = false := rfl
@[simp] theorem clearElements_ready : (s.clearElements).ready = false := rfl
@[simp] theorem clearElements_ivcfg : (s.clearElements).ivcfg = Vector.replicate 16 0 := rfl
@[simp] theorem clearElements_fb : (s.clearElements).fb = Vector.replicate 16 0 := rfl
@[simp] theorem clearElements_acc : (s.clearElements).acc = Vector.replicate 16 0 := rfl
@[simp] theorem clearElements_fill : (s.clearElements).fill = 0 := rfl
@[simp] theorem clearElements_err : (s.clearElements).err = .ok := rfl
@[simp] theorem clearElements_outlen : (s.clearElements).outlen = 0 := rfl
@[simp] theorem clearElements_inflight : (s.clearElements).inflight = s.inflight := rfl
@[simp] theorem clearElements_host : (s.clearElements).host = s.host := rfl
@[simp] theorem clearElements_rdata : (s.clearElements).rdata = s.rdata := rfl
@[simp] theorem clearElements_draws : (s.clearElements).draws = s.draws := rfl

/-! `applyReset` -/

@[simp] theorem applyReset_keyIn : (s.applyReset).keyIn = Vector.replicate 32 0 := rfl
@[simp] theorem applyReset_ivIn : (s.applyReset).ivIn = Vector.replicate 16 0 := rfl
@[simp] theorem applyReset_din : (s.applyReset).din = Vector.replicate 16 0 := rfl
@[simp] theorem applyReset_dout : (s.applyReset).dout = Vector.replicate 16 0 := rfl
@[simp] theorem applyReset_qlen : (s.applyReset).qlen = 0 := rfl
@[simp] theorem applyReset_w : (s.applyReset).w = Vector.replicate 60 0 := rfl
@[simp] theorem applyReset_nr : (s.applyReset).nr = .zero := rfl
@[simp] theorem applyReset_keyed : (s.applyReset).keyed = false := rfl
@[simp] theorem applyReset_mode : (s.applyReset).mode = .ecb := rfl
@[simp] theorem applyReset_dir : (s.applyReset).dir = false := rfl
@[simp] theorem applyReset_ready : (s.applyReset).ready = false := rfl
@[simp] theorem applyReset_ivcfg : (s.applyReset).ivcfg = Vector.replicate 16 0 := rfl
@[simp] theorem applyReset_fb : (s.applyReset).fb = Vector.replicate 16 0 := rfl
@[simp] theorem applyReset_acc : (s.applyReset).acc = Vector.replicate 16 0 := rfl
@[simp] theorem applyReset_fill : (s.applyReset).fill = 0 := rfl
@[simp] theorem applyReset_err : (s.applyReset).err = .ok := rfl
@[simp] theorem applyReset_outlen : (s.applyReset).outlen = 0 := rfl
@[simp] theorem applyReset_inflight : (s.applyReset).inflight = none := rfl
@[simp] theorem applyReset_host : (s.applyReset).host = s.host := rfl
@[simp] theorem applyReset_rdata : (s.applyReset).rdata = s.rdata := rfl
@[simp] theorem applyReset_draws : (s.applyReset).draws = s.draws := rfl

/-! `issue` -/

@[simp] theorem issue_keyIn (v : Word) : (s.issue v).keyIn = s.keyIn := rfl
@[simp] theorem issue_ivIn (v : Word) : (s.issue v).ivIn = s.ivIn := rfl
@[simp] theorem issue_din (v : Word) : (s.issue v).din = s.din := rfl
@[simp] theorem issue_dout (v : Word) : (s.issue v).dout = s.dout := rfl
@[simp] theorem issue_qlen (v : Word) : (s.issue v).qlen = s.qlen := rfl
@[simp] theorem issue_w (v : Word) : (s.issue v).w = s.w := rfl
@[simp] theorem issue_nr (v : Word) : (s.issue v).nr = s.nr := rfl
@[simp] theorem issue_keyed (v : Word) : (s.issue v).keyed = s.keyed := rfl
@[simp] theorem issue_mode (v : Word) : (s.issue v).mode = s.mode := rfl
@[simp] theorem issue_dir (v : Word) : (s.issue v).dir = s.dir := rfl
@[simp] theorem issue_ready (v : Word) : (s.issue v).ready = s.ready := rfl
@[simp] theorem issue_ivcfg (v : Word) : (s.issue v).ivcfg = s.ivcfg := rfl
@[simp] theorem issue_fb (v : Word) : (s.issue v).fb = s.fb := rfl
@[simp] theorem issue_acc (v : Word) : (s.issue v).acc = s.acc := rfl
@[simp] theorem issue_fill (v : Word) : (s.issue v).fill = s.fill := rfl
@[simp] theorem issue_err (v : Word) : (s.issue v).err = s.err := rfl
@[simp] theorem issue_outlen (v : Word) : (s.issue v).outlen = s.outlen := rfl
@[simp] theorem issue_inflight (v : Word) : (s.issue v).inflight = some ⟨v, Config.cmdLatency s.draws v s.byteImage s.wordImage⟩ := rfl
@[simp] theorem issue_host (v : Word) : (s.issue v).host = s.host := rfl
@[simp] theorem issue_rdata (v : Word) : (s.issue v).rdata = s.rdata := rfl
@[simp] theorem issue_draws (v : Word) : (s.issue v).draws = s.draws + 1 := rfl

/-! `stillExecuting` -/

@[simp] theorem stillExecuting_keyIn (f : InFlight) : (s.stillExecuting f).keyIn = s.keyIn := rfl
@[simp] theorem stillExecuting_ivIn (f : InFlight) : (s.stillExecuting f).ivIn = s.ivIn := rfl
@[simp] theorem stillExecuting_din (f : InFlight) : (s.stillExecuting f).din = s.din := rfl
@[simp] theorem stillExecuting_dout (f : InFlight) : (s.stillExecuting f).dout = s.dout := rfl
@[simp] theorem stillExecuting_qlen (f : InFlight) : (s.stillExecuting f).qlen = s.qlen := rfl
@[simp] theorem stillExecuting_w (f : InFlight) : (s.stillExecuting f).w = s.w := rfl
@[simp] theorem stillExecuting_nr (f : InFlight) : (s.stillExecuting f).nr = s.nr := rfl
@[simp] theorem stillExecuting_keyed (f : InFlight) : (s.stillExecuting f).keyed = s.keyed := rfl
@[simp] theorem stillExecuting_mode (f : InFlight) : (s.stillExecuting f).mode = s.mode := rfl
@[simp] theorem stillExecuting_dir (f : InFlight) : (s.stillExecuting f).dir = s.dir := rfl
@[simp] theorem stillExecuting_ready (f : InFlight) : (s.stillExecuting f).ready = s.ready := rfl
@[simp] theorem stillExecuting_ivcfg (f : InFlight) : (s.stillExecuting f).ivcfg = s.ivcfg := rfl
@[simp] theorem stillExecuting_fb (f : InFlight) : (s.stillExecuting f).fb = s.fb := rfl
@[simp] theorem stillExecuting_acc (f : InFlight) : (s.stillExecuting f).acc = s.acc := rfl
@[simp] theorem stillExecuting_fill (f : InFlight) : (s.stillExecuting f).fill = s.fill := rfl
@[simp] theorem stillExecuting_err (f : InFlight) : (s.stillExecuting f).err = s.err := rfl
@[simp] theorem stillExecuting_outlen (f : InFlight) : (s.stillExecuting f).outlen = s.outlen := rfl
@[simp] theorem stillExecuting_inflight (f : InFlight) : (s.stillExecuting f).inflight = some { f with wait := f.wait - 1 } := rfl
@[simp] theorem stillExecuting_host (f : InFlight) : (s.stillExecuting f).host = s.host := rfl
@[simp] theorem stillExecuting_rdata (f : InFlight) : (s.stillExecuting f).rdata = busyStatusWord (Config.busyStatus s.draws f.word f.wait s.byteImage s.wordImage) := rfl
@[simp] theorem stillExecuting_draws (f : InFlight) : (s.stillExecuting f).draws = s.draws + 1 := rfl

/-! `modeBlock` -/

@[simp] theorem modeBlock_keyIn (x : Block) : (modeBlock s x).2.keyIn = s.keyIn := rfl
@[simp] theorem modeBlock_ivIn (x : Block) : (modeBlock s x).2.ivIn = s.ivIn := rfl
@[simp] theorem modeBlock_din (x : Block) : (modeBlock s x).2.din = s.din := rfl
@[simp] theorem modeBlock_dout (x : Block) : (modeBlock s x).2.dout = s.dout := rfl
@[simp] theorem modeBlock_qlen (x : Block) : (modeBlock s x).2.qlen = s.qlen := rfl
@[simp] theorem modeBlock_w (x : Block) : (modeBlock s x).2.w = s.w := rfl
@[simp] theorem modeBlock_nr (x : Block) : (modeBlock s x).2.nr = s.nr := rfl
@[simp] theorem modeBlock_keyed (x : Block) : (modeBlock s x).2.keyed = s.keyed := rfl
@[simp] theorem modeBlock_mode (x : Block) : (modeBlock s x).2.mode = s.mode := rfl
@[simp] theorem modeBlock_dir (x : Block) : (modeBlock s x).2.dir = s.dir := rfl
@[simp] theorem modeBlock_ready (x : Block) : (modeBlock s x).2.ready = s.ready := rfl
@[simp] theorem modeBlock_ivcfg (x : Block) : (modeBlock s x).2.ivcfg = s.ivcfg := rfl
@[simp] theorem modeBlock_fb (x : Block) : (modeBlock s x).2.fb = (chainBlock s.mode s.dir s.encipher s.decipher s.fb x).2 := rfl
@[simp] theorem modeBlock_acc (x : Block) : (modeBlock s x).2.acc = s.acc := rfl
@[simp] theorem modeBlock_fill (x : Block) : (modeBlock s x).2.fill = s.fill := rfl
@[simp] theorem modeBlock_err (x : Block) : (modeBlock s x).2.err = s.err := rfl
@[simp] theorem modeBlock_outlen (x : Block) : (modeBlock s x).2.outlen = s.outlen := rfl
@[simp] theorem modeBlock_inflight (x : Block) : (modeBlock s x).2.inflight = s.inflight := rfl
@[simp] theorem modeBlock_host (x : Block) : (modeBlock s x).2.host = s.host := rfl
@[simp] theorem modeBlock_rdata (x : Block) : (modeBlock s x).2.rdata = s.rdata := rfl
@[simp] theorem modeBlock_draws (x : Block) : (modeBlock s x).2.draws = s.draws := rfl

/-! `loadKeyIf` -/

@[simp] theorem loadKeyIf_keyIn (lk : Bool) (klen : BitVec 6) : (s.loadKeyIf lk klen).keyIn = s.keyIn := by
  cases lk <;> rfl
@[simp] theorem loadKeyIf_ivIn (lk : Bool) (klen : BitVec 6) : (s.loadKeyIf lk klen).ivIn = s.ivIn := by
  cases lk <;> rfl
@[simp] theorem loadKeyIf_din (lk : Bool) (klen : BitVec 6) : (s.loadKeyIf lk klen).din = s.din := by
  cases lk <;> rfl
@[simp] theorem loadKeyIf_dout (lk : Bool) (klen : BitVec 6) : (s.loadKeyIf lk klen).dout = s.dout := by
  cases lk <;> rfl
@[simp] theorem loadKeyIf_qlen (lk : Bool) (klen : BitVec 6) : (s.loadKeyIf lk klen).qlen = s.qlen := by
  cases lk <;> rfl
@[simp] theorem loadKeyIf_w (lk : Bool) (klen : BitVec 6) : (s.loadKeyIf lk klen).w = if lk then (keyExpansion s.keyIn klen.toNat).1 else s.w := by
  cases lk <;> rfl
@[simp] theorem loadKeyIf_nr (lk : Bool) (klen : BitVec 6) : (s.loadKeyIf lk klen).nr = if lk then (keyExpansion s.keyIn klen.toNat).2 else s.nr := by
  cases lk <;> rfl
@[simp] theorem loadKeyIf_keyed (lk : Bool) (klen : BitVec 6) : (s.loadKeyIf lk klen).keyed = (lk || s.keyed) := by
  cases lk <;> rfl
@[simp] theorem loadKeyIf_mode (lk : Bool) (klen : BitVec 6) : (s.loadKeyIf lk klen).mode = s.mode := by
  cases lk <;> rfl
@[simp] theorem loadKeyIf_dir (lk : Bool) (klen : BitVec 6) : (s.loadKeyIf lk klen).dir = s.dir := by
  cases lk <;> rfl
@[simp] theorem loadKeyIf_ready (lk : Bool) (klen : BitVec 6) : (s.loadKeyIf lk klen).ready = s.ready := by
  cases lk <;> rfl
@[simp] theorem loadKeyIf_ivcfg (lk : Bool) (klen : BitVec 6) : (s.loadKeyIf lk klen).ivcfg = s.ivcfg := by
  cases lk <;> rfl
@[simp] theorem loadKeyIf_fb (lk : Bool) (klen : BitVec 6) : (s.loadKeyIf lk klen).fb = s.fb := by
  cases lk <;> rfl
@[simp] theorem loadKeyIf_acc (lk : Bool) (klen : BitVec 6) : (s.loadKeyIf lk klen).acc = s.acc := by
  cases lk <;> rfl
@[simp] theorem loadKeyIf_fill (lk : Bool) (klen : BitVec 6) : (s.loadKeyIf lk klen).fill = s.fill := by
  cases lk <;> rfl
@[simp] theorem loadKeyIf_err (lk : Bool) (klen : BitVec 6) : (s.loadKeyIf lk klen).err = s.err := by
  cases lk <;> rfl
@[simp] theorem loadKeyIf_outlen (lk : Bool) (klen : BitVec 6) : (s.loadKeyIf lk klen).outlen = s.outlen := by
  cases lk <;> rfl
@[simp] theorem loadKeyIf_inflight (lk : Bool) (klen : BitVec 6) : (s.loadKeyIf lk klen).inflight = s.inflight := by
  cases lk <;> rfl
@[simp] theorem loadKeyIf_host (lk : Bool) (klen : BitVec 6) : (s.loadKeyIf lk klen).host = s.host := by
  cases lk <;> rfl
@[simp] theorem loadKeyIf_rdata (lk : Bool) (klen : BitVec 6) : (s.loadKeyIf lk klen).rdata = s.rdata := by
  cases lk <;> rfl
@[simp] theorem loadKeyIf_draws (lk : Bool) (klen : BitVec 6) : (s.loadKeyIf lk klen).draws = s.draws := by
  cases lk <;> rfl

/-! `loadIvIf` -/

@[simp] theorem loadIvIf_keyIn (li : Bool) : (s.loadIvIf li).keyIn = s.keyIn := by
  cases li <;> rfl
@[simp] theorem loadIvIf_ivIn (li : Bool) : (s.loadIvIf li).ivIn = s.ivIn := by
  cases li <;> rfl
@[simp] theorem loadIvIf_din (li : Bool) : (s.loadIvIf li).din = s.din := by
  cases li <;> rfl
@[simp] theorem loadIvIf_dout (li : Bool) : (s.loadIvIf li).dout = s.dout := by
  cases li <;> rfl
@[simp] theorem loadIvIf_qlen (li : Bool) : (s.loadIvIf li).qlen = s.qlen := by
  cases li <;> rfl
@[simp] theorem loadIvIf_w (li : Bool) : (s.loadIvIf li).w = s.w := by
  cases li <;> rfl
@[simp] theorem loadIvIf_nr (li : Bool) : (s.loadIvIf li).nr = s.nr := by
  cases li <;> rfl
@[simp] theorem loadIvIf_keyed (li : Bool) : (s.loadIvIf li).keyed = s.keyed := by
  cases li <;> rfl
@[simp] theorem loadIvIf_mode (li : Bool) : (s.loadIvIf li).mode = s.mode := by
  cases li <;> rfl
@[simp] theorem loadIvIf_dir (li : Bool) : (s.loadIvIf li).dir = s.dir := by
  cases li <;> rfl
@[simp] theorem loadIvIf_ready (li : Bool) : (s.loadIvIf li).ready = s.ready := by
  cases li <;> rfl
@[simp] theorem loadIvIf_ivcfg (li : Bool) : (s.loadIvIf li).ivcfg = if li then s.ivIn else s.ivcfg := by
  cases li <;> rfl
@[simp] theorem loadIvIf_fb (li : Bool) : (s.loadIvIf li).fb = s.fb := by
  cases li <;> rfl
@[simp] theorem loadIvIf_acc (li : Bool) : (s.loadIvIf li).acc = s.acc := by
  cases li <;> rfl
@[simp] theorem loadIvIf_fill (li : Bool) : (s.loadIvIf li).fill = s.fill := by
  cases li <;> rfl
@[simp] theorem loadIvIf_err (li : Bool) : (s.loadIvIf li).err = s.err := by
  cases li <;> rfl
@[simp] theorem loadIvIf_outlen (li : Bool) : (s.loadIvIf li).outlen = s.outlen := by
  cases li <;> rfl
@[simp] theorem loadIvIf_inflight (li : Bool) : (s.loadIvIf li).inflight = s.inflight := by
  cases li <;> rfl
@[simp] theorem loadIvIf_host (li : Bool) : (s.loadIvIf li).host = s.host := by
  cases li <;> rfl
@[simp] theorem loadIvIf_rdata (li : Bool) : (s.loadIvIf li).rdata = s.rdata := by
  cases li <;> rfl
@[simp] theorem loadIvIf_draws (li : Bool) : (s.loadIvIf li).draws = s.draws := by
  cases li <;> rfl

/-! BUSY after each update. -/

@[simp] theorem complete_busy (code : ErrCode) (out : List Byte) : (s.complete code out).busy = false := rfl
@[simp] theorem issue_busy (v : Word) : (s.issue v).busy = true := rfl
@[simp] theorem stillExecuting_busy (f : InFlight) : (s.stillExecuting f).busy = true := rfl
@[simp] theorem applyReset_busy : s.applyReset.busy = false := rfl
@[simp] theorem reset_busy : State.reset.busy = false := rfl

end Sys2Proof.Machine
end

