-- ==== Sys2Proof/Laws/Ops.lean ====
section
/-! SUPPORT. Laws of the shared operations: blocks and byte packing, the completion record, the mode block function, the cases of
each command that has several, and what a bus access comes to. -/

namespace Sys2Proof.Machine

/-! Blocks and bytes -/

@[simp] theorem xorBlock_get (a b : Block) (i : Nat) (h : i < 16) : (xorBlock a b)[i] = a[i] ^^^ b[i] := by
  simp [xorBlock]

theorem xorBlock_comm (a b : Block) : xorBlock a b = xorBlock b a := by
  ext i h
  simp [BitVec.xor_comm]

theorem xorBlock_assoc (a b c : Block) : xorBlock (xorBlock a b) c = xorBlock a (xorBlock b c) := by
  ext i h
  simp [BitVec.xor_assoc]

/-- XOR with the same block twice gives the block back. -/
@[simp] theorem xorBlock_cancel (a b : Block) : xorBlock (xorBlock a b) b = a := by
  ext i h
  simp

@[simp] theorem padBlock_get (out : List Byte) (i : Nat) (h : i < 16) : (padBlock out)[i] = out[i]?.getD 0 := by
  simp [padBlock]

@[simp] theorem padBlock_nil : padBlock [] = Vector.replicate 16 0 := by decide

/-- Sixteen bytes padded are those bytes. -/
@[simp] theorem padBlock_toList (b : Block) : padBlock b.toList = b := by
  ext i h
  simp [h]

/-- The bits of a word made of four bytes. -/
theorem wordOfBytes_getLsbD (a b c d : Byte) (i : Nat) :
    (wordOfBytes a b c d).getLsbD i = (decide (i < 32) &&
      (decide (24 ≤ i) && a.getLsbD (i - 24) || decide (16 ≤ i) && b.getLsbD (i - 16)
        || decide (8 ≤ i) && c.getLsbD (i - 8) || d.getLsbD i)) := by
  simp only [wordOfBytes, BitVec.getLsbD_or, fieldAt_getLsbD]
  by_cases h : i < 32 <;> simp [h]

/-- A byte of an array after a write of word k (20_memory.md R55). -/
theorem storeWord_get {n : Nat} (b : Vector Byte n) (k : Nat) (v : Word) (i : Nat) (h : i < n) :
    (storeWord b k v)[i] = if i / 4 = k then v.extractLsb' (24 - 8 * (i % 4)) 8 else b[i] := by
  simp [storeWord]

/-! The mode block function -/

/-- ModeBlock writes FB and nothing else (42_modes.md R150). -/
theorem modeBlock_frame (s : State) (x : Block) : (modeBlock s x).2 = { s with fb := (modeBlock s x).2.fb } := rfl

/-- ModeBlock reads only W, NR, MODE, DIR and FB (42_modes.md R150). -/
theorem modeBlock_congr (s t : State) (x : Block) (hw : s.w = t.w) (hn : s.nr = t.nr) (hm : s.mode = t.mode)
    (hd : s.dir = t.dir) (hf : s.fb = t.fb) :
    (modeBlock s x).1 = (modeBlock t x).1 ∧ (modeBlock s x).2.fb = (modeBlock t x).2.fb := by
  have he : s.encipher = t.encipher := by funext v; simp [State.encipher, hw, hn]
  have hde : s.decipher = t.decipher := by funext v; simp [State.decipher, hw, hn]
  simp [modeBlock, he, hde, hm, hd, hf]

/-! What each command comes to -/

/-- INIT: a failed check, or the stream opened (41_init.md R140). -/
theorem execInit_cases (mode : Mode) (dir lk li : Bool) (klen : BitVec 6) (ivlen : BitVec 5) (s : State) :
    (∃ code, initError s mode lk li klen ivlen = some code ∧ (code = .keyLen ∨ code = .param) ∧
      execInit mode dir lk li klen ivlen s = .next (s.closeStream.complete code [])) ∨
    (initError s mode lk li klen ivlen = none ∧ execInit mode dir lk li klen ivlen s =
      .next ((((s.loadKeyIf lk klen).loadIvIf li).openStream mode dir).complete .ok [])) := by
  unfold execInit
  cases h : initError s mode lk li klen ivlen with
  | none => exact .inr ⟨rfl, rfl⟩
  | some code =>
    refine .inl ⟨code, rfl, ?_, rfl⟩
    simp only [initError] at h
    split at h
    · exact .inl (Option.some.inj h).symm
    · repeat' split at h
      all_goals first | exact .inr (Option.some.inj h).symm | exact absurd h (by simp)

/-- When INIT's checks all pass (41_init.md R140). -/
theorem initError_none_iff (s : State) (mode : Mode) (lk li : Bool) (klen : BitVec 6) (ivlen : BitVec 5) :
    initError s mode lk li klen ivlen = none ↔
      (lk = true → keyLenLegal klen = true) ∧ (li = true → mode ≠ .ecb) ∧ (li = true → ivLenLegal ivlen = true) ∧
        (lk = false → s.keyed = true) := by
  simp only [initError]
  cases lk <;> cases li <;> cases keyLenLegal klen <;> cases ivLenLegal ivlen <;> cases s.keyed <;> cases mode <;>
    decide

/-- UPDATE: an illegal COUNT, no open stream, or the loop (43_stream.md R170). -/
theorem execUpdate_cases (n : BitVec 5) (s : State) :
    (16 < n.toNat ∧ execUpdate n s = .next (s.raiseError .cmd)) ∨
    (n.toNat ≤ 16 ∧ s.ready = false ∧ execUpdate n s = .next (s.raiseError .state)) ∨
    (n.toNat ≤ 16 ∧ s.ready = true ∧
      execUpdate n s = .next ((absorb s (s.dinBytes n)).1.complete .ok (absorb s (s.dinBytes n)).2)) := by
  by_cases hn : n.toNat ≤ 16
  · cases hr : s.ready
    · exact .inr (.inl ⟨hn, rfl, by simp [execUpdate, countLegal, hn, hr]⟩)
    · exact .inr (.inr ⟨hn, rfl, by simp [execUpdate, countLegal, hn, hr]⟩)
  · exact .inl ⟨by omega, by simp [execUpdate, countLegal, hn]⟩

/-- BLOCK: an illegal COUNT, no open stream, too few bytes, or the block (42_modes.md R160). -/
theorem execBlock_cases (n : BitVec 5) (s : State) :
    (16 < n.toNat ∧ execBlock n s = .next (s.raiseError .cmd)) ∨
    (n.toNat ≤ 16 ∧ s.ready = false ∧ execBlock n s = .next (s.raiseError .state)) ∨
    (n.toNat < 16 ∧ s.ready = true ∧ execBlock n s = .next (s.raiseError .input)) ∨
    (n.toNat = 16 ∧ s.ready = true ∧
      execBlock n s = .next ((modeBlock s s.din).2.complete .ok (modeBlock s s.din).1.toList)) := by
  by_cases hn : n.toNat ≤ 16
  · cases hr : s.ready
    · exact .inr (.inl ⟨hn, rfl, by simp [execBlock, countLegal, hn, hr]⟩)
    · by_cases h : n.toNat < 16
      · exact .inr (.inr (.inl ⟨h, rfl, by simp [execBlock, countLegal, hn, hr, Config.blockBytes, h]⟩))
      · exact .inr (.inr (.inr ⟨by omega, rfl, by simp [execBlock, countLegal, hn, hr, Config.blockBytes, h]⟩))
  · exact .inl ⟨by omega, by simp [execBlock, countLegal, hn]⟩

/-- FINAL's code, and how many bytes it puts out (43_stream.md R172). -/
theorem finalResult_cases (s : State) :
    (s.fill.val = 0 ∧ finalResult s = (.ok, [])) ∨
    (s.fill.val ≠ 0 ∧ needsWholeBlocks s.mode = true ∧ finalResult s = (.dataLen, [])) ∨
    (s.fill.val ≠ 0 ∧ needsWholeBlocks s.mode = false ∧
      finalResult s = (.ok, (xorBlock s.acc s.keystream).toList.take s.fill.val)) := by
  unfold finalResult
  by_cases h : s.fill.val = 0
  · exact .inl ⟨h, by simp [h]⟩
  · cases hm : needsWholeBlocks s.mode
    · exact .inr (.inr ⟨h, rfl, by simp [h]⟩)
    · exact .inr (.inl ⟨h, rfl, by simp [h]⟩)

theorem finalResult_length (s : State) :
    (finalResult s).2.length = if (finalResult s).1 = .ok then s.fill.val else 0 := by
  have := s.fill.isLt
  rcases finalResult_cases s with ⟨h, e⟩ | ⟨_, _, e⟩ | ⟨_, _, e⟩ <;> (rw [e]; simp; try omega)

/-! The bus -/

/-- The register at an access, if the access is legal (20_memory.md R51 to R53). -/
theorem regOfAccess_regOffset (r : Reg) : regOfAccess (regOffset r) 4 = some r := by
  cases r with
  | id => rfl
  | cmd => rfl
  | status => rfl
  | qlen => rfl
  | osize => rfl
  | usize => rfl
  | key k => revert k; decide
  | iv k => revert k; decide
  | din k => revert k; decide
  | dout k => revert k; decide

/-- A register's offset is the only access that reaches it. -/
theorem regOfAccess_eq_some {off : Offset} {size : Nat} {r : Reg} (h : regOfAccess off size = some r) :
    size = 4 ∧ off = regOffset r := by
  have h4 : size = 4 := by
    by_contra hne
    simp [regOfAccess, hne] at h
  subst h4
  refine ⟨rfl, ?_⟩
  have all : ∀ off : Offset, regOfAccess off 4 = none ∨ ∃ r, regOfAccess off 4 = some r ∧ off = regOffset r := by
    intro off
    have table : ∀ off : Offset, (match regOfAccess off 4 with
        | none => true
        | some r => off == regOffset r) = true := by decide
    have := table off
    cases hr : regOfAccess off 4 with
    | none => exact .inl rfl
    | some r => rw [hr] at this; exact .inr ⟨r, rfl, by simpa using this⟩
  rcases all off with hn | ⟨r', hr', ho⟩
  · rw [hn] at h; cases h
  · rw [hr'] at h; cases h; exact ho

/-- A read while BUSY = 0 (20_memory.md R52 to R54). -/
theorem busRead_idle (s : State) (off : Offset) (size : Nat) (h : s.inflight = none) :
    busRead s off size = idleRead s off size := by
  simp [busRead, h]

/-- A STATUS read while BUSY = 1 (10_state.md R28). -/
theorem busRead_status (s : State) (f : InFlight) (h : s.inflight = some f) :
    busRead s (regOffset .status) 4 = busyStatusRead s f := by
  have : isStatusRead (regOffset .status) 4 = true := by decide
  simp [busRead, h, this]

/-- A write while BUSY = 0 (20_memory.md R52 to R54, R57). -/
theorem busWrite_idle (s : State) (off : Offset) (size : Nat) (v : Word) (r : Reg) (h : s.inflight = none)
    (hr : regOfAccess off size = some r) : busWrite s off size v = .next (s.writeReg r v) := by
  simp [busWrite, State.busy, h, hr]

@[simp] theorem mapNext_next (f : State → State) (s : State) : mapNext f (.next s) = .next (f s) := rfl

/-- A next state that `mapNext` answers comes from a next state. -/
theorem mapNext_eq_next {f : State → State} {o : Host.Outcome State Fault Refusal} {t : State}
    (h : mapNext f o = .next t) : ∃ s, o = .next s ∧ t = f s := by
  cases o with
  | next s => exact ⟨s, rfl, by simpa [mapNext] using h.symm⟩
  | fault r => simp [mapNext] at h
  | refused r => simp [mapNext] at h

end Sys2Proof.Machine
end

