-- ==== Sys2Proof/Laws/Aes.lean ====
section
/-! SUPPORT. Laws of the engine: multiplication in GF(2^8) is linear in its second factor, AddRoundKey is its own inverse, and
how a cell of a block is read. -/

namespace Sys2Proof.Machine

theorem polyMul_xor (a b c : Byte) (n : Nat) : polyMul a (b ^^^ c) n = polyMul a b n ^^^ polyMul a c n := by
  induction n with
  | zero => simp [polyMul]
  | succ k ih =>
    simp only [polyMul, ih, BitVec.getLsbD_xor]
    have self (x y z : BitVec 16) : x ^^^ y = x ^^^ z ^^^ (y ^^^ z) := by
      rw [show x ^^^ z ^^^ (y ^^^ z) = x ^^^ y ^^^ (z ^^^ z) by ac_rfl]
      simp
    cases b.getLsbD k <;> cases c.getLsbD k <;> simp [← self] <;> ac_rfl

theorem polyReduce_xor (n : Nat) (p q : BitVec 16) : polyReduce n (p ^^^ q) = polyReduce n p ^^^ polyReduce n q := by
  induction n generalizing p q with
  | zero => rfl
  | succ k ih =>
    simp only [polyReduce, BitVec.getLsbD_xor, ← ih]
    congr 1
    cases p.getLsbD (8 + k) <;> cases q.getLsbD (8 + k) <;> simp
    · ac_rfl
    · ac_rfl
    · rw [show (p ^^^ 283#16 <<< k) ^^^ (q ^^^ 283#16 <<< k) = p ^^^ q ^^^ (283#16 <<< k ^^^ 283#16 <<< k) by ac_rfl]
      simp

/-- Multiplication distributes over addition (40_aes_engine.md R100, R101). -/
theorem gfMul_xor (a b c : Byte) : gfMul a (b ^^^ c) = gfMul a b ^^^ gfMul a c := by
  simp [gfMul, polyMul_xor, polyReduce_xor]

/-- AddRoundKey is its own inverse (40_aes_engine.md R118). -/
@[simp] theorem addRoundKey_twice (w : Schedule) (s : Block) (r : Nat) : addRoundKey w (addRoundKey w s r) r = s := by
  simp [addRoundKey]

/-- A cell of a block made index by index (40_aes_engine.md R113). -/
theorem cell_ofFn (f : Fin 16 → Byte) (r c : Nat) : cell (Vector.ofFn f) r c = f ⟨r % 4 + 4 * (c % 4), by omega⟩ := by
  simp [cell]

end Sys2Proof.Machine
end

