-- ==== Sys2Proof/Laws/Stream.lean ====
section
/-! SUPPORT. Laws of the accumulator: what UPDATE's loop does, byte by byte and on a whole sequence, and that it reads and
writes only the stream's own elements. -/

namespace Sys2Proof.Machine

/-- The state with every element changed that UPDATE's loop neither reads nor writes, but may differ between two commands of
one stream. -/
def State.overlay (s : State) (d x : Block) (e : ErrCode) (o : Fin 17) (f : Option InFlight) : State :=
  { s with din := d, dout := x, err := e, outlen := o, inflight := f }

/-- One byte either joins the accumulator or completes a block. -/
theorem absorbByte_cases (s : State) (out : List Byte) (b : Byte) :
    (s.fill.val ≠ 15 ∧ absorbByte (s, out) b =
      ({ s with acc := s.acc.set s.fill.val b, fill := Fin.ofNat 16 (s.fill.val + 1) }, out)) ∨
    (s.fill.val = 15 ∧ absorbByte (s, out) b =
      ({ s with fb := (modeBlock s (s.acc.set s.fill.val b)).2.fb, acc := zeroBlock, fill := 0 },
        out ++ (modeBlock s (s.acc.set s.fill.val b)).1.toList)) := by
  by_cases h : s.fill.val = 15
  · exact .inr ⟨h, by simp [absorbByte, h, Config.blockBytes]; exact ⟨rfl, rfl⟩⟩
  · exact .inl ⟨h, by simp [absorbByte, h, Config.blockBytes]⟩

theorem absorbByte_out (s : State) (out : List Byte) (b : Byte) :
    absorbByte (s, out) b = ((absorbByte (s, []) b).1, out ++ (absorbByte (s, []) b).2) := by
  simp only [absorbByte]
  split <;> simp

theorem foldl_absorbByte (bs : List Byte) (s : State) (out : List Byte) :
    bs.foldl absorbByte (s, out) = ((absorb s bs).1, out ++ (absorb s bs).2) := by
  induction bs generalizing s out with
  | nil => simp [absorb]
  | cons b bs ih =>
    simp only [absorb, List.foldl_cons]
    rw [absorbByte_out s out b, ih, ← Prod.mk.eta (p := absorbByte (s, []) b), ih]
    simp

@[simp] theorem absorb_nil (s : State) : absorb s [] = (s, []) := rfl

theorem absorb_cons (s : State) (b : Byte) (bs : List Byte) :
    absorb s (b :: bs) =
      ((absorb (absorbByte (s, []) b).1 bs).1,
        (absorbByte (s, []) b).2 ++ (absorb (absorbByte (s, []) b).1 bs).2) :=
  foldl_absorbByte bs (absorbByte (s, []) b).1 (absorbByte (s, []) b).2

/-- UPDATE's loop over two sequences one after the other is the loop over their concatenation. -/
theorem absorb_append (s : State) (as bs : List Byte) :
    absorb s (as ++ bs) = ((absorb (absorb s as).1 bs).1, (absorb s as).2 ++ (absorb (absorb s as).1 bs).2) := by
  rw [absorb, List.foldl_append, ← absorb, ← Prod.mk.eta (p := absorb s as), foldl_absorbByte]

theorem absorbByte_overlay (s : State) (d x : Block) (e : ErrCode) (o : Fin 17) (f : Option InFlight) (b : Byte) :
    absorbByte (s.overlay d x e o f, []) b =
      ((absorbByte (s, []) b).1.overlay d x e o f, (absorbByte (s, []) b).2) := by
  rcases absorbByte_cases s [] b with ⟨h, e1⟩ | ⟨h, e1⟩ <;>
    rcases absorbByte_cases (s.overlay d x e o f) [] b with ⟨h', e2⟩ | ⟨h', e2⟩
  · rw [e1, e2]; rfl
  · exact absurd h' h
  · exact absurd h h'
  · rw [e1, e2]; rfl

/-- The loop commutes with a change of DIN, DOUT, ERR, OUTLEN and BUSY. -/
theorem absorb_overlay (bs : List Byte) (s : State) (d x : Block) (e : ErrCode) (o : Fin 17) (f : Option InFlight) :
    absorb (s.overlay d x e o f) bs = ((absorb s bs).1.overlay d x e o f, (absorb s bs).2) := by
  induction bs generalizing s with
  | nil => rfl
  | cons b bs ih => rw [absorb_cons, absorb_cons, absorbByte_overlay, ih]

/-- What the loop leaves as it is: everything but FB, ACC and FILL. -/
theorem absorb_frame (bs : List Byte) (s : State) :
    ∃ fb acc fill, (absorb s bs).1 = { s with fb := fb, acc := acc, fill := fill } := by
  induction bs generalizing s with
  | nil => exact ⟨s.fb, s.acc, s.fill, rfl⟩
  | cons b bs ih =>
    obtain ⟨fb, acc, fill, h⟩ := ih (absorbByte (s, []) b).1
    rw [absorb_cons, h]
    rcases absorbByte_cases s [] b with ⟨_, e⟩ | ⟨_, e⟩ <;> rw [e] <;> exact ⟨fb, acc, fill, rfl⟩

/-- FILL after the loop, and how many bytes it put out. -/
theorem absorb_counts (bs : List Byte) (s : State) :
    (absorb s bs).1.fill.val = (s.fill.val + bs.length) % 16 ∧
    (absorb s bs).2.length = (s.fill.val + bs.length) / 16 * 16 := by
  induction bs generalizing s with
  | nil => simp; omega
  | cons b bs ih =>
    obtain ⟨h1, h2⟩ := ih (absorbByte (s, []) b).1
    rw [absorb_cons]
    rcases absorbByte_cases s [] b with ⟨h, e⟩ | ⟨h, e⟩ <;> rw [e] at h1 h2 ⊢ <;>
      simp [Fin.ofNat] at h1 h2 ⊢ <;> omega

/-- An output of at most 16 bytes is what DOUT[0..OUTLEN-1] holds after the completion. -/
theorem complete_output (s : State) (code : ErrCode) (out : List Byte) (h : out.length ≤ 16) :
    (s.complete code out).output = out := by
  have h' : out.length % 17 = out.length := Nat.mod_eq_of_lt (by omega)
  apply List.ext_getElem
  · simp [State.output, State.complete, padBlock, Fin.ofNat, h', h]
  · intro i h1 h2
    simp [State.output, State.complete, padBlock, h2]

/-- UPDATE on an open stream: the completion of its loop's state and output. -/
theorem execUpdate_open (n : BitVec 5) (s : State) (hn : n.toNat ≤ 16) (hr : s.ready = true) :
    execUpdate n s = .next ((absorb s (s.dinBytes n)).1.complete .ok (absorb s (s.dinBytes n)).2) := by
  simp [execUpdate, countLegal, hn, hr]

theorem dinBytes_length (s : State) (n : BitVec 5) (hn : n.toNat ≤ 16) : (s.dinBytes n).length = n.toNat := by
  simp [State.dinBytes, hn]

/-- An UPDATE's output, collected, is what its loop puts out; its state is the loop's under a completion record. -/
theorem collect_update (s : State) (d : Block) (n : BitVec 5) (out : List Byte) (hn : n.toNat ≤ 16)
    (hr : s.ready = true) :
    ∃ x e o f, collect (.update n) ({ s with din := d }, out) =
      ((absorb s (d.toList.take n.toNat)).1.overlay d x e o f, out ++ (absorb s (d.toList.take n.toNat)).2) := by
  have hd : ({ s with din := d } : State) = s.overlay d s.dout s.err s.outlen s.inflight := rfl
  have hl : (absorb s (d.toList.take n.toNat)).2.length ≤ 16 := by
    have := (absorb_counts (d.toList.take n.toNat) s).2
    have := s.fill.isLt
    simp at *
    omega
  simp only [collect, exec]
  rw [execUpdate_open n { s with din := d } hn hr]
  simp only [State.dinBytes]
  rw [hd, absorb_overlay]
  simp only
  rw [complete_output _ _ _ hl]
  exact ⟨_, _, _, _, rfl⟩

/-- A list of UPDATEs does to the stream's elements, and puts out, what one loop over all their bytes does. -/
theorem feedStream_eq_absorb (cs : List Chunk) (s : State) (hr : s.ready = true) (hc : ChunksLegal cs) :
    ∃ d x e o f, feedStream s cs =
      ((absorb s (chunkBytes cs)).1.overlay d x e o f, (absorb s (chunkBytes cs)).2) := by
  induction cs using List.reverseRecOn with
  | nil => exact ⟨s.din, s.dout, s.err, s.outlen, s.inflight, rfl⟩
  | append_singleton cs c ih =>
    obtain ⟨d, x, e, o, f, h⟩ := ih fun c' hc' => hc c' (by simp [hc'])
    have hr' : ((absorb s (chunkBytes cs)).1.overlay d x e o f).ready = true := by
      obtain ⟨_, _, _, h'⟩ := absorb_frame (chunkBytes cs) s
      rw [h']; exact hr
    have hf : feedStream s (cs ++ [c]) =
        collect (.update c.2) ({ (feedStream s cs).1 with din := c.1 }, (feedStream s cs).2) := by
      simp [feedStream]
    obtain ⟨x', e', o', f', h2⟩ := collect_update _ c.1 c.2 (absorb s (chunkBytes cs)).2 (hc c (by simp)) hr'
    have hb : chunkBytes (cs ++ [c]) = chunkBytes cs ++ c.1.toList.take c.2.toNat := by simp [chunkBytes]
    rw [hf, h, h2, absorb_overlay, hb, absorb_append]
    exact ⟨c.1, x', e', o', f', rfl⟩

end Sys2Proof.Machine
end

