-- ==== Sys2Proof/Laws/Exec.lean ====
section
/-! SUPPORT. Laws of exec as a whole: no command reads or writes the model's own fields, a completed command leaves BUSY = 0, and
what the loop and the completion record leave in the unused bytes. -/

namespace Sys2Proof.Machine

/-- The state with the model's own fields changed. -/
def State.withModelFields (s : State) (h : List HostOp) (r : Word) (d : Nat) : State :=
  { s with host := h, rdata := r, draws := d }

theorem absorb_modelFields (bs : List Byte) (s : State) (h : List HostOp) (r : Word) (d : Nat) :
    absorb (s.withModelFields h r d) bs = ((absorb s bs).1.withModelFields h r d, (absorb s bs).2) := by
  induction bs generalizing s with
  | nil => rfl
  | cons b bs ih =>
    have one : absorbByte (s.withModelFields h r d, []) b =
        ((absorbByte (s, []) b).1.withModelFields h r d, (absorbByte (s, []) b).2) := by
      rcases absorbByte_cases s [] b with ⟨h1, e1⟩ | ⟨h1, e1⟩ <;>
        rcases absorbByte_cases (s.withModelFields h r d) [] b with ⟨h2, e2⟩ | ⟨h2, e2⟩
      · rw [e1, e2]; rfl
      · exact absurd h2 h1
      · exact absurd h1 h2
      · rw [e1, e2]; rfl
    rw [absorb_cons, absorb_cons, one, ih]

/-- No command reads the host's list, the word of its last read or the draw counter, and none changes them. -/
theorem exec_modelFields (i : Instr) (s : State) (h : List HostOp) (r : Word) (d : Nat) :
    exec i (s.withModelFields h r d) = mapNext (fun t => t.withModelFields h r d) (exec i s) := by
  cases i with
  | nop => rfl
  | init mode dir lk li klen ivlen =>
    have e : initError (s.withModelFields h r d) mode lk li klen ivlen = initError s mode lk li klen ivlen := rfl
    simp only [exec, execInit, e]
    split
    · rfl
    · cases lk <;> cases li <;> rfl
  | update n =>
    have same : (s.withModelFields h r d).dinBytes n = s.dinBytes n := rfl
    have ready : (s.withModelFields h r d).ready = s.ready := rfl
    simp only [exec, execUpdate, same, ready, absorb_modelFields]
    repeat' split
    all_goals rfl
  | final =>
    have ready : (s.withModelFields h r d).ready = s.ready := rfl
    simp only [exec, execFinal, ready]
    split <;> rfl
  | block n =>
    have ready : (s.withModelFields h r d).ready = s.ready := rfl
    simp only [exec, execBlock, ready]
    repeat' split
    all_goals rfl
  | zeroize => rfl
  | reserved w => rfl

/-- A command that answers a next state leaves no command in flight (60_exceptions.md R202). -/
theorem exec_inflight {i : Instr} {s t : State} (h : exec i s = .next t) : t.inflight = none := by
  cases i with
  | nop => cases h; rfl
  | init mode dir lk li klen ivlen =>
    simp only [exec] at h
    rcases execInit_cases mode dir lk li klen ivlen s with ⟨_, _, _, e⟩ | ⟨_, e⟩ <;> rw [e] at h <;> cases h <;> rfl
  | update n =>
    simp only [exec] at h
    rcases execUpdate_cases n s with ⟨_, e⟩ | ⟨_, _, e⟩ | ⟨_, _, e⟩ <;> rw [e] at h <;> cases h <;> rfl
  | final =>
    simp only [exec, execFinal] at h
    split at h <;> cases h <;> rfl
  | block n =>
    simp only [exec] at h
    rcases execBlock_cases n s with ⟨_, e⟩ | ⟨_, _, e⟩ | ⟨_, _, e⟩ | ⟨_, _, e⟩ <;> rw [e] at h <;> cases h <;> rfl
  | zeroize => cases h; rfl
  | reserved w => cases h; rfl

/-- The loop keeps the accumulator's unused bytes 0 (10_state.md R39). -/
theorem absorb_accTail (bs : List Byte) (s : State) (h : AccTailZero s) : AccTailZero (absorb s bs).1 := by
  induction bs generalizing s with
  | nil => exact h
  | cons b bs ih =>
    rw [absorb_cons]
    apply ih
    rcases absorbByte_cases s [] b with ⟨hf, e⟩ | ⟨_, e⟩ <;> rw [e] <;> intro j hj
    · have := s.fill.isLt
      have hv : (Fin.ofNat 16 (s.fill.val + 1)).val = s.fill.val + 1 := by simp [Fin.ofNat]; omega
      simp only [hv] at hj
      simp only [Vector.getElem_set]
      rw [if_neg (by omega)]
      exact h j (by omega)
    · simp [zeroBlock]

/-- The completion record leaves 0 in the bytes of DOUT above OUTLEN (60_exceptions.md R202). -/
theorem complete_doutTail (s : State) (code : ErrCode) (out : List Byte) (h : out.length ≤ 16) :
    DoutTailZero (s.complete code out) := by
  intro j hj
  have hv : (Fin.ofNat 17 out.length).val = out.length := by simp [Fin.ofNat]; omega
  simp only [complete_outlen, hv] at hj
  simp [List.getElem?_eq_none hj]

end Sys2Proof.Machine
end

