-- ==== Sys2Proof/Laws/PerInstr.lean ====
section
/-! SUPPORT. Laws stated per instruction. OpcodeRowOf: a well-formed command's word is accepted by the row of its own mnemonic in
the opcode map (30_encoding.md R78) and by no other row; a reserved word by no row. -/

namespace Sys2Proof.Laws.OpcodeRowOf

/-- The rows of the opcode map that accept a word, by name. -/
def rowsOf (c : Word) : List String := (opcodeMap.filter fun r => r.accepts c).map fun r => r.mnemonic

/-- The row a command belongs to, if any. -/
def ownRow (i : Instr) : List String :=
  match i with
  | .nop => ["NOP"]
  | .init _ _ _ _ _ _ => ["INIT"]
  | .update _ => ["UPDATE"]
  | .final => ["FINAL"]
  | .block _ => ["BLOCK"]
  | .zeroize => ["ZEROIZE"]
  | .reserved _ => []

def Statement (i : Instr) : Prop := i.wellFormed = true → rowsOf (encode i) = ownRow i

theorem nop : Statement .nop := by unfold Statement; decide

/-- The masks of the other rows keep bit 0, which is 1 in INIT's word, or bit 1 and 2, which are 0 in it. -/
theorem init (mode : Mode) (dir lk li : Bool) (klen : BitVec 6) (ivlen : BitVec 5) :
    Statement (.init mode dir lk li klen ivlen) := by
  intro _
  have low : (encodeI mode dir lk li klen ivlen).extractLsb' 0 4 = 1 := by
    ext j hj
    simp only [BitVec.getElem_extractLsb', encodeI_getLsbD]
    interval_cases j <;> simp
  have hm : (encodeI mode dir lk li klen ivlen).extractLsb' 4 3 = mode.code := by
    ext j hj
    simp only [BitVec.getElem_extractLsb', encodeI_getLsbD]
    interval_cases j <;> simp [BitVec.getLsbD_eq_getElem]
  have own : (encodeI mode dir lk li klen ivlen &&& 0xFFE0000F#32 == 1#32) = true := by
    rw [beq_iff_eq]
    ext j hj
    simp only [← BitVec.getLsbD_eq_getElem, BitVec.getLsbD_and, encodeI_getLsbD]
    interval_cases j <;> simp
  have code : mode.code.toNat ≤ 4 := by cases mode <;> decide
  have other (w mask : Word) (h : w.extractLsb' 0 4 ≠ 1) (h' : mask.extractLsb' 0 4 = 0xF) :
      (encodeI mode dir lk li klen ivlen &&& mask == w) = false := by
    rw [beq_eq_false_iff_ne]
    intro he
    apply h
    rw [← he, BitVec.extractLsb'_and, low, h']
    decide
  have n0 := other 0#32 0xFFFFFFFF#32 (by decide) (by decide)
  have n2 := other 2#32 0xFFFFFE0F#32 (by decide) (by decide)
  have n3 := other 3#32 0xFFFFFFFF#32 (by decide) (by decide)
  have n4 := other 4#32 0xFFFFFE0F#32 (by decide) (by decide)
  have n5 := other 5#32 0xFFFFFFFF#32 (by decide) (by decide)
  simp only [rowsOf, ownRow, encode, opcodeMap, OpcodeRow.accepts, List.filter, BitVec.ofNat_eq_ofNat, own, n0, n2, n3,
    n4, n5, Further.holds, hm, code, Bool.false_and, Bool.true_and, decide_true, List.map]

theorem update (n : BitVec 5) : Statement (.update n) := by unfold Statement; revert n; decide

theorem final : Statement .final := by unfold Statement; decide

theorem block (n : BitVec 5) : Statement (.block n) := by unfold Statement; revert n; decide

theorem zeroize : Statement .zeroize := by unfold Statement; decide

theorem reserved (w : Word) : Statement (.reserved w) := by
  intro h
  simpa [Instr.wellFormed, legalWord, rowsOf, ownRow, encode, List.filter_eq_nil_iff] using h

end Sys2Proof.Laws.OpcodeRowOf
end

