-- ==== Sys2Proof/Tests/Slice0.lean ====
section
/-! SUPPORT. Tests: ill-formed terms that WellFormed refuses, words written out from the spec's formats, one-step tests with the
values of 95_test_vectors.md and of the rules' own examples, and for every obligation with hypotheses a state and
operands that meet them. -/

namespace Sys2Proof.Tests

open Sys2Proof.Machine

/-! ## Helpers -/

/-- The bytes of a hex string. -/
def bytesOf (h : String) : List Byte := (hexBytes h.toList).getD []

/-- The block of a hex string, zeros after its bytes. -/
def blockOf (h : String) : Block := padBlock (bytesOf h)

/-- The contents of KEYIN for a hex string, zeros after its bytes. -/
def keyOf (h : String) : KeyBytes := Vector.ofFn fun i => (bytesOf h)[i.val]?.getD 0

/-- KEY of 95_test_vectors.md. -/
def vectorKey : String := "5F060D3716B345C253F6749ABAC10917"

/-- DATA block 0 of 95_test_vectors.md. -/
def vectorData : String := "AAFE47EE82411A2BF3F6752AE8D78311"

/-- A state with a 16-byte key expanded and a stream open, IV 0^16. -/
def opened (key : String) (mode : Mode) (dir : Bool) : State :=
  { State.reset with
    keyIn := keyOf key, w := (keyExpansion (keyOf key) 16).1, nr := .ten, keyed := true, mode := mode, dir := dir,
    ready := true }

/-- The same with `n` bytes 0 buffered. -/
def buffered (mode : Mode) (n : Fin 16) : State := { opened "" mode true with fill := n }

/-- STATUS after a command. -/
def statusAfter (i : Instr) (s : State) : Option Word :=
  match exec i s with
  | .next t => some t.statusWord
  | .fault _ => none
  | .refused _ => none

/-- DOUT after a command. -/
def doutAfter (i : Instr) (s : State) : Option Block :=
  match exec i s with
  | .next t => some t.dout
  | .fault _ => none
  | .refused _ => none

/-! ## WellFormed refuses ill-formed terms -/

theorem test_update_17_ill_formed : (Instr.update 17).wellFormed = false := by decide
theorem test_block_17_ill_formed : (Instr.block 17).wellFormed = false := by decide
theorem test_reserved_of_a_legal_word_ill_formed : (Instr.reserved 0x00104391).wellFormed = false := by decide

/-! ## Words written out from the formats (30_encoding.md R71 to R74), and the illegal words of V24 -/

/-- `init ctr, dec, key=32, iv=16`: v = 10000, k = 100000, i = 1, l = 1, d = 0, m = 100. -/
theorem test_decode_init_ctr_dec :
    decodeWord 0b00000000000100001000001101000001 = .init .ctr false true true 32 16 := by decide

/-- `init cbc, dec`: no key, no IV. -/
theorem test_decode_init_no_parameters :
    decodeWord 0b00000000000000000000000000010001 = .init .cbc false false false 0 0 := by decide

theorem test_decode_update_16 : decodeWord 0b00000000000000000000000100000010 = .update 16 := by decide
theorem test_illegal_opcode : decodeCommand 0x00000007 = .error .reservedOpcode := by decide
theorem test_illegal_nop_bit : decodeCommand 0x00000010 = .error .reservedBits := by decide
theorem test_illegal_mode : decodeCommand 0x00000051 = .error .reservedMode := by decide
theorem test_illegal_init_bit : decodeCommand 0x00200001 = .error .reservedBits := by decide
theorem test_illegal_count : decodeCommand 0x00000112 = .error .countTooLarge := by decide
theorem test_decode_table_word : decodeTableWord 32 0x00104391 = some (.init .cbc true true true 16 16) := by decide

/-- The example of 30_encoding.md R85. -/
theorem test_assemble_init :
    assembleLine 0 "init cbc, enc, key=16, iv=16 ; open" = some [.wr 0x04 4 0x00104391] := by decide +kernel
theorem test_disassemble_illegal : (disassemble 0x00000007).text = ".illegal 0x00000007" := by decide +kernel

/-! ## The engine (40_aes_engine.md, the rules' examples) -/

theorem test_gf_product : gfMul 0x57 0x83 = 0xC1 := by decide
theorem test_inverse : gfInv 0x53 = 0xCA := by decide +kernel
theorem test_sub_rot : subWord (rotWord 0x09CF4F3C) = 0x8A84EB01 := by decide +kernel
theorem test_key_expansion_128 :
    wordAt (keyExpansion (keyOf "2B7E151628AED2A6ABF7158809CF4F3C") 16).1 43 = 0xB6630CA6 := by decide +kernel
theorem test_key_expansion_256 :
    wordAt (keyExpansion (keyOf "000102030405060708090A0B0C0D0E0F101112131415161718191A1B1C1D1E1F") 32).1 12 =
      0x1651A8CD := by decide +kernel
theorem test_mix_columns : (mixColumns (blockOf "DB135345")).toList.take 4 = [0x8E, 0x4D, 0xA1, 0xBC] := by decide +kernel
theorem test_counter_carry :
    inc128 (blockOf "000000000000000000000000FFFFFFFF") = blockOf "00000000000000000000000100000000" := by decide +kernel
theorem test_counter_wrap : inc128 (Vector.replicate 16 0xFF) = Vector.replicate 16 0 := by decide +kernel

/-! ## One step of each command -/

theorem test_nop_clears_err : statusAfter .nop { opened "" .cbc true with err := .dataLen } = some 0x0A00001E := by
  decide +kernel

/-- 41_init.md R140's example. -/
theorem test_init_status :
    statusAfter (.init .cbc true true true 16 16) { State.reset with keyIn := keyOf vectorKey } = some 0x0A00001E := by
  decide +kernel

/-- V25: KEYLEN comes first, whatever IVLEN is. -/
theorem test_init_keylen : statusAfter (.init .cbc true true true 15 16) State.reset = some 0x00000100 := by decide +kernel

/-- 43_stream.md R170's example: seven bytes, no output, FILL 7. -/
theorem test_update_7 :
    statusAfter (.update 7) { opened vectorKey .cbc true with din := blockOf vectorData } = some 0x0A00701E := by
  decide +kernel

/-- V25: UPDATE before any INIT. -/
theorem test_update_closed : statusAfter (.update 4) State.reset = some 0x00000500 := by decide +kernel

/-- V25: FINAL of a CBC stream with FILL 5. -/
theorem test_final_partial_cbc : statusAfter .final (buffered .cbc 5) = some 0x0A00041C := by decide +kernel

/-- 42_modes.md R157's keystream, here of 16 zero key bytes and FB = FF..FF: the first 3 bytes of
3F5B8CC9EA855A0AFA7347D23E8D664E, and no more. -/
theorem test_final_partial_ctr :
    doutAfter .final { buffered .ctr 3 with fb := Vector.replicate 16 0xFF } = some (blockOf "3F5B8C") := by decide +kernel

/-- V1. -/
theorem test_block_ecb_encrypt :
    doutAfter (.block 16) (opened "" .ecb true) = some (blockOf "66E94BD4EF8A2C3B884CFA59CA342B2E") := by decide +kernel

/-- V4. -/
theorem test_block_ecb_decrypt :
    doutAfter (.block 16) (opened "" .ecb false) = some (blockOf "140F0F1011B5223D79587717FFD9EC3A") := by decide +kernel

theorem test_zeroize_status : statusAfter .zeroize (buffered .ctr 5) = some 0 := by decide +kernel

/-- V25: opcode 7 with FILL 5. -/
theorem test_reserved_keeps_stream : statusAfter (.reserved 7) (buffered .cbc 5) = some 0x0A00561E := by decide +kernel

/-- One `step` on a placed command word: the FINAL of a closed stream. -/
theorem test_step_runs_placed_word : (match step (State.reset.withFetchWord 32 3) with
    | .next t => t.rdata
    | .fault _ => 1
    | .refused _ => 1) = 0x00000500 := by decide +kernel

/-- 43_stream.md R176's example: FILL = 5, QLEN = 2^31 - 1. -/
theorem test_sizes : ({ State.reset with fill := 5, qlen := 0x7FFFFFFF } : State).osize = 0x80000004 ∧
    ({ State.reset with fill := 5, qlen := 0x7FFFFFFF } : State).usize = 0x80000000 := by decide +kernel

/-! ## Witnesses: states and operands that meet the hypotheses of each obligation -/

/-- A state with a command in flight and a list of host operations. -/
def flying (c : Word) (n : Nat) (ops : List HostOp) : State := { State.reset with inflight := some ⟨c, n⟩, host := ops }

theorem witness_DecodeOfEncode :
    (Instr.init .ctr true true true 63 31).wellFormed = true ∧ (Instr.update 16).wellFormed = true ∧
      (Instr.block 0).wellFormed = true ∧ (Instr.reserved 0xFFFFFFFF).wellFormed = true := by decide

theorem witness_DisassemblyAssemblesToTheSameCommand : legalWord 0x00000112 = false := by decide

theorem witness_StepRunsTheCommandInFlight :
    (flying 0 0 [.rd 0x08 4]).inflight = some ⟨0, 0⟩ ∧ (flying 0 0 [.rd 0x08 4]).host = .rd 0x08 4 :: [] ∧
      (flying 0 0 [.poll]).host = .poll :: [] ∧ ∃ t, exec (decodeWord 0) (flying 0 0 []) = .next t :=
  ⟨rfl, rfl, rfl, _, rfl⟩

theorem witness_CmdWriteIssuesOneCommand :
    ({ State.reset with host := [.wr 0x04 4 5] } : State).busy = false ∧
      ({ State.reset with host := [.wr 0x04 4 5] } : State).host = .wr 0x04 4 5 :: [] := by decide

theorem witness_StatusReadWhileExecuting :
    (flying 5 1 [.rd 0x08 4]).inflight = some ⟨5, 0 + 1⟩ ∧ (flying 5 1 [.rd 0x08 4]).host = .rd 0x08 4 :: [] := by decide

theorem witness_PollEndsWithTheCommandCompleted :
    (flying 5 2 [.poll]).inflight = some ⟨5, 2⟩ ∧ (flying 5 2 [.poll]).host = .poll :: [] ∧
      ∃ u, exec (decodeWord 5) (flying 5 2 [.poll]) = .next u :=
  ⟨rfl, rfl, _, rfl⟩

/-- Both kinds of access at the values where they meet: the last legal and the first reserved offset of each range. -/
theorem witness_BusErrorExactlyOnIllegalAccesses :
    State.reset.busy = false ∧
    (∀ off : Offset, off ∈ [0x18, 0x1C, 0x70, 0x74, 0x78, 0x7C, 0x01, 0x7F] →
      (off.toNat % 4 ≠ 0 ∨ off.toNat ∈ [0x18, 0x1C, 0x70, 0x74, 0x78, 0x7C])) ∧
    (∀ off : Offset, off ∈ [0x00, 0x14, 0x20, 0x6C] →
      ¬(off.toNat % 4 ≠ 0 ∨ off.toNat ∈ [0x18, 0x1C, 0x70, 0x74, 0x78, 0x7C])) := by decide

theorem witness_BusyViolationExactlyOffStatus :
    (flying 0 0 []).busy = true ∧ ¬((0x08 : Offset) = 0x08 ∧ (2 : Nat) = 4) ∧ ¬((0x0C : Offset) = 0x08 ∧ (4 : Nat) = 4) := by
  decide

/-- For IdleReadsHaveNoSideEffect, OperandWritesStoreTheirData, SizeRegistersAreExact and StatusWordLayout: an idle core, with a
stream open and without. -/
theorem witness_idle_core : State.reset.busy = false ∧ (buffered .cbc 15).busy = false := by decide

theorem witness_AccessKindsOfRegisters :
    State.reset.busy = false ∧ (0x6C : Offset).toNat ∈ [0x00, 0x08, 0x10, 0x14, 0x60, 0x64, 0x68, 0x6C] ∧
      (0x3C : Offset).toNat ∈ [0x04, 0x20, 0x24, 0x28, 0x2C, 0x30, 0x34, 0x38, 0x3C] := by decide

theorem witness_BytePackingIsBigEndian : 4 * 7 + 3 < 32 ∧ 4 * 3 + 3 < 16 := by decide

theorem witness_ResetReplacesTheWholeRecord : (flying 5 3 [.reset, .poll]).host = .reset :: [.poll] := by decide

theorem witness_RegistersAfterReset : Reg.dout 3 ≠ Reg.id := by decide

theorem witness_FieldInverseIsUnique : (0x53 : Byte) ≠ 0 ∧ gfMul 0x53 0xCA = 1 := by decide

theorem witness_KeyExpansionEquations :
    ((8 : Nat) = 4 ∨ (8 : Nat) = 6 ∨ (8 : Nat) = 8) ∧ 8 ≤ 12 ∧ 12 < 4 * (8 + 7) ∧ 12 % 8 = 4 ∧ 4 * (4 + 7) ≤ 44 := by decide

theorem witness_RoundKeysAreBigEndianWords : (6 : Nat) = 4 ∨ (6 : Nat) = 6 ∨ (6 : Nat) = 8 := by decide

theorem witness_ModeBlockTable :
    ∀ (mode : Mode) (dir : Bool), (opened "" mode dir).mode = mode ∧ (opened "" mode dir).dir = dir :=
  fun _ _ => ⟨rfl, rfl⟩

theorem witness_BlockProcessesDin :
    (16#5).toNat ≤ 16 ∧ (15#5).toNat < 16 ∧ (16#5).toNat = 16 ∧ State.reset.ready = false ∧
      (opened vectorKey .cbc true).ready = true ∧ (0x00000114 : Word).extractLsb' 0 4 = 4 ∧
      17 ≤ ((0x00000114 : Word).extractLsb' 4 5).toNat ∧ (0x00000204 : Word).extractLsb' 9 23 ≠ 0 := by decide

theorem witness_StreamsOpenAndClose :
    (∃ t, exec (.init .ecb true true false 16 0) State.reset = .next t ∧ t.ready = true ∧ t.err = .ok) ∧
    (∃ t, exec .final (buffered .ecb 5) = .next t ∧ t.ready = false) ∧
    (∃ t, exec (.init .ecb true true false 15 0) (buffered .ecb 5) = .next t ∧ t.err = .keyLen) ∧
    ∃ t, exec (.update 16) State.reset = .next t ∧ t.err = .state :=
  ⟨⟨_, rfl, rfl, rfl⟩, ⟨_, rfl, rfl⟩, ⟨_, rfl, rfl⟩, _, rfl, rfl⟩

/-- For BlockStreamRoundTrip and ChunkingDoesNotMatter: an open stream in every mode and direction. -/
theorem witness_open_stream (mode : Mode) (dir : Bool) : (opened vectorKey mode dir).ready = true := rfl

/-- A CTR stream of three bytes: its encryption (the keystream starts 66E94B, V1) fed back in two chunks. -/
theorem witness_StreamRoundTrip :
    (opened "" .ctr true).ready = true ∧ (opened "" .ctr true).fill.val = 0 ∧
    ChunksLegal [(blockOf "010203", 3)] ∧ ChunksLegal [(blockOf "67EB", 2), (blockOf "48", 1)] ∧
    (needsWholeBlocks (opened "" .ctr true).mode = true → (chunkBytes [(blockOf "010203", 3)]).length % 16 = 0) ∧
    chunkBytes [(blockOf "67EB", 2), (blockOf "48", 1)] =
      (runStream { opened "" .ctr true with dir := true } [(blockOf "010203", 3)]).2 := by
  refine ⟨rfl, rfl, ?_, ?_, ?_, ?_⟩
  · unfold ChunksLegal; decide
  · unfold ChunksLegal; decide
  · decide
  · decide +kernel

/-- The same stream from its INIT on, with 16 zero key bytes and the all-zero IV. -/
theorem witness_StreamRoundTrip_from_init :
    initError State.reset .ctr true true 16 16 = none ∧ needsWholeBlocks .ctr = false ∧
    chunkBytes [(blockOf "67EB", 2), (blockOf "48", 1)] =
      initStream .ctr true true true 16 16 State.reset [(blockOf "010203", 3)] := by
  refine ⟨by decide, rfl, by decide +kernel⟩

theorem witness_CtrAndOfbIgnoreDirection : (opened "" .ctr true).mode = .ctr ∧ (opened "" .ofb true).mode = .ofb := ⟨rfl, rfl⟩

theorem witness_OfbKeystreamIsIterated :
    (opened "" .ofb true).ready = true ∧ (opened "" .ofb true).mode = .ofb ∧
      [blockOf vectorData, zeroBlock][1]? = some zeroBlock := ⟨rfl, rfl, rfl⟩

theorem witness_CfbErrorPropagation (x x' z : Block) :
    (opened "" .cfb false).ready = true ∧ (opened "" .cfb false).mode = .cfb ∧ (opened "" .cfb false).dir = false ∧
      [x, z][0]? = some x ∧ (∃ y, (blockStream (opened "" .cfb false) [x, z])[0]? = some y) ∧
      ∃ y', (blockStream (opened "" .cfb false) ([x, z].set 0 x'))[0]? = some y' :=
  ⟨rfl, rfl, rfl, rfl, ⟨_, rfl⟩, _, rfl⟩

theorem witness_CbcErrorPropagation :
    (opened "" .cbc false).ready = true ∧ (opened "" .cbc false).mode = .cbc ∧ (opened "" .cbc false).dir = false ∧
      (2 : Nat) ≠ 0 ∧ (2 : Nat) ≠ 0 + 1 := by decide

/-- The clauses of UPDATE meet at FILL + n = 15 and 16. -/
theorem witness_UpdateAppendsAndDrains :
    (16#5).toNat ≤ 16 ∧ State.reset.ready = false ∧ (buffered .cbc 15).ready = true ∧
      (buffered .cbc 15).fill.val + (0#5).toNat < 16 ∧ 16 ≤ (buffered .cbc 15).fill.val + (1#5).toNat ∧
      16 ≤ (buffered .cbc 0).fill.val + (16#5).toNat ∧ (0x00000112 : Word).extractLsb' 0 4 = 2 ∧
      17 ≤ ((0x00000112 : Word).extractLsb' 4 5).toNat := by decide

theorem witness_FinalFlushesAndCloses :
    State.reset.ready = false ∧ (buffered .cbc 0).ready = true ∧ (buffered .cbc 0).fill.val = 0 ∧
      (buffered .ecb 1).ready = true ∧ (buffered .ecb 1).fill.val ≠ 0 ∧ (buffered .ecb 1).mode = .ecb ∧
      (buffered .ofb 15).ready = true ∧ (buffered .ofb 15).fill.val ≠ 0 ∧ (buffered .ofb 15).mode = .ofb := by decide

theorem witness_ChunkingDoesNotMatter :
    ChunksLegal [(blockOf vectorData, 16)] ∧ ChunksLegal [(blockOf vectorData, 7), (blockOf "2BF3F6752AE8D78311", 9)] ∧
      chunkBytes [(blockOf vectorData, 16)] = chunkBytes [(blockOf vectorData, 7), (blockOf "2BF3F6752AE8D78311", 9)] := by
  refine ⟨?_, ?_, ?_⟩
  · unfold ChunksLegal; decide
  · unfold ChunksLegal; decide
  · decide +kernel

theorem witness_StreamOutputLength :
    (opened "" .ecb true).ready = true ∧ (opened "" .ecb true).fill.val = 0 ∧ needsWholeBlocks .ecb = true ∧
      needsWholeBlocks .cfb = false ∧ (chunkBytes [(zeroBlock, 16)]).length % 16 = 0 ∧
      (chunkBytes [(zeroBlock, 15)]).length % 16 ≠ 0 := by decide

theorem witness_SizeQueriesPredictTheOutput :
    ({ buffered .ctr 5 with qlen := 12 } : State).ready = true ∧
      (chunkBytes [(zeroBlock, 12)]).length = ({ buffered .ctr 5 with qlen := 12 } : State).qlen.toNat ∧
      ({ buffered .ctr 0 with qlen := 0 } : State).qlen.toNat = (chunkBytes []).length := by decide

theorem witness_InitOpensAStream :
    (16#6).toNat = 16 ∧ (24#6).toNat = 24 ∧ (32#6).toNat = 32 ∧ Mode.cbc ≠ Mode.ecb ∧ (16#5).toNat = 16 ∧
      (buffered .cbc 5).keyed = true := by decide

/-- Each failure at the values next to the legal ones. -/
theorem witness_InitFailuresInOrder :
    (∀ k : BitVec 6, k ∈ [0, 15, 17, 23, 25, 31, 33, 63] → k.toNat ≠ 16 ∧ k.toNat ≠ 24 ∧ k.toNat ≠ 32) ∧
      (15#5).toNat ≠ 16 ∧ (17#5).toNat ≠ 16 ∧ State.reset.keyed = false ∧ State.reset.ready = false ∧
      legalWord 0x000041D1 = false ∧ legalWord 0x00304391 = false ∧ (15#5).toNat < 16 ∧
      (buffered .cbc 5).ready = true ∧ (buffered .cbc 5).fill.val ≠ 0 ∧ (buffered .cbc 5).mode = .cbc := by decide

/-- The failure of an IV with ECB alone: a legal key length and a legal IV length (V25's `init ecb, enc, key=16, iv=16`). -/
theorem witness_InitFailuresInOrder_iv_with_ecb :
    ¬(true = true ∧ (16#6).toNat ≠ 16 ∧ (16#6).toNat ≠ 24 ∧ (16#6).toNat ≠ 32) ∧
      ((true = true ∧ Mode.ecb = Mode.ecb) ∨ (true = true ∧ (16#5).toNat ≠ 16) ∨
        (true = false ∧ State.reset.keyed = false)) ∧
      statusAfter (.init .ecb true true true 16 16) State.reset = some 0x00000200 := by decide +kernel

/-- INIT with LK = 0 on two states with one key schedule and two streams; then INIT with LK = 1 and LI = 1 on two states that
agree in the first 16 bytes of KEYIN and in IVIN, and in neither W nor IVCFG. -/
theorem witness_ReinitForgetsTheEarlierStream :
    buffered .ctr 5 ≠ opened "" .cbc false ∧ (buffered .ctr 5).w = (opened "" .cbc false).w ∧
      (buffered .ctr 5).ivIn = (opened "" .cbc false).ivIn ∧
      (∃ s', exec (.init .cfb true false true 0 16) (buffered .ctr 5) = .next s' ∧ s'.ready = true) ∧
      (∃ t', exec (.init .cfb true false true 0 16) (opened "" .cbc false) = .next t') ∧
      State.reset.keyIn.toList.take (16#6).toNat = (opened "" .cbc false).keyIn.toList.take (16#6).toNat ∧
      State.reset.w ≠ (opened "" .cbc false).w ∧
      State.reset.ivcfg ≠ ({ opened "" .cbc false with ivcfg := blockOf "01" } : State).ivcfg ∧
      (∃ s', exec (.init .cfb true true true 16 16) State.reset = .next s' ∧ s'.ready = true) ∧
      ∃ t', exec (.init .cfb true true true 16 16) { opened "" .cbc false with ivcfg := blockOf "01" } = .next t' := by
  refine ⟨fun h => absurd (congrArg State.fill h) (by decide), rfl, rfl, ⟨_, rfl, rfl⟩, ⟨_, rfl⟩, ?_, ?_, ?_,
    ⟨_, rfl, rfl⟩, ⟨_, rfl⟩⟩ <;> decide +kernel

theorem witness_StepKeepsInvariants :
    StateInv (flying 0 0 [.rd 0x08 4]) ∧ (∃ t, step (flying 0 0 [.rd 0x08 4]) = .next t) ∧
      StateInv { State.reset with w := (keyExpansion (keyOf vectorKey) 16).1, nr := .ten, keyed := true, ready := true } := by
  refine ⟨by decide +kernel, ⟨_, rfl⟩, by decide +kernel⟩

theorem witness_StepKeepsKeySchedule :
    HoldsSchedule State.reset ∧ HoldsSchedule (opened vectorKey .cbc true) ∧
      ∃ t, step (opened vectorKey .cbc true) = .next t := by
  have legal : (16#6).toNat = 16 := rfl
  have rounds : (keyExpansion (keyOf vectorKey) 16).2 = .ten := by decide +kernel
  refine ⟨.inr ⟨rfl, rfl, rfl⟩, .inl ⟨rfl, keyOf vectorKey, 16#6, by decide, ?_⟩, opened vectorKey .cbc true, ?_⟩
  · rw [legal, ← Prod.mk.eta (p := keyExpansion (keyOf vectorKey) 16), rounds]; rfl
  · simp only [step, hostStep, opened, State.reset]

theorem witness_NoPartialOutput : ∃ t, exec (.block 3) (opened "" .ecb true) = .next t ∧ t.err ≠ .ok :=
  ⟨_, rfl, by decide⟩

theorem witness_ErrorEffects :
    (∃ t, exec (.block 3) (buffered .ecb 5) = .next t ∧ t.err = .input) ∧
    (∃ t, exec (.init .ecb true false true 0 16) (buffered .ecb 5) = .next t ∧ t.err = .param) ∧
    ∃ t, exec .final (buffered .ecb 5) = .next t ∧ t.err = .dataLen :=
  ⟨⟨_, rfl, rfl⟩, ⟨_, rfl, rfl⟩, _, rfl, rfl⟩

theorem witness_OnlyInitAndZeroizeReconfigure :
    (∃ t, exec (.init .cbc true true true 24 16) { State.reset with ivIn := blockOf vectorData } = .next t) ∧
    (match exec (.init .cbc true true true 24 16) { State.reset with ivIn := blockOf vectorData } with
      | .next t => decide ((t.w, t.nr, t.keyed) ≠ (State.reset.w, State.reset.nr, State.reset.keyed)) &&
          decide (t.ivcfg ≠ State.reset.ivcfg) && decide ((t.mode, t.dir) ≠ (State.reset.mode, State.reset.dir))
      | .fault _ => false
      | .refused _ => false) = true :=
  ⟨⟨_, rfl⟩, by decide +kernel⟩

theorem witness_CommandsLeaveOperandRegisters :
    (∃ t, exec (.update 16) (buffered .ctr 1) = .next t) ∧ Instr.update 16 ≠ Instr.zeroize := ⟨⟨_, rfl⟩, by decide⟩

/-- Two states that differ in KEYIN and in ACC only. -/
theorem witness_WindowHidesSecrets :
    SameVisible (buffered .ctr 1) { buffered .ctr 1 with keyIn := keyOf vectorKey, acc := blockOf "01" } ∧
      (buffered .ctr 1).busy = false :=
  ⟨⟨rfl, rfl, rfl, rfl, rfl, rfl, rfl, rfl, rfl, rfl, rfl, rfl, rfl⟩, rfl⟩

/-- Adjacent windows, at the first and the last address of the first one. -/
theorem witness_InstancesAreIndependent :
    0x1000 ≤ 0x1000 ∧ 0x1000 < 0x1000 + 128 ∧ 0x107F < 0x1000 + 128 ∧ 0x1000 + 128 ≤ 0x1080 := by decide

end Sys2Proof.Tests
end

section
/-! PROOFS. The family 10_state.md: the layout of STATUS (R27), and that every step keeps the invariants (R40). -/

namespace Sys2Proof

/-! Fields of a word -/

/-- A field is read back at its own bits. -/
theorem fieldAt_extractLsb'_self {n : Nat} (lo : Nat) (x : BitVec n) (h : lo + n ≤ 32) :
    (fieldAt lo x).extractLsb' lo n = x := by
  ext j hj
  have inWord : lo + j < 32 := by omega
  simp only [BitVec.getElem_extractLsb', fieldAt_getLsbD]
  simp [inWord, BitVec.getLsbD_eq_getElem hj]

/-- A field puts 0 at every bit range that it does not meet. -/
theorem fieldAt_extractLsb'_disjoint {n : Nat} (lo : Nat) (x : BitVec n) (a m : Nat) (h : a + m ≤ lo ∨ lo + n ≤ a) :
    (fieldAt lo x).extractLsb' a m = 0 := by
  ext j hj
  simp only [BitVec.getElem_extractLsb', fieldAt_getLsbD]
  rcases h with below | above
  · simp [show ¬lo ≤ a + j by omega]
  · simp [BitVec.getLsbD_of_ge x (a + j - lo) (by omega)]

/-- A one-bit field puts 0 at every bit range that does not hold its bit. -/
theorem flagAt_extractLsb'_disjoint (lo : Nat) (b : Bool) (a m : Nat) (h : a + m ≤ lo ∨ lo < a) :
    (flagAt lo b).extractLsb' a m = 0 :=
  fieldAt_extractLsb'_disjoint lo (BitVec.ofBool b) a m (by omega)

end Sys2Proof

namespace Sys2Proof.Machine

/-! STATUS (10_state.md R27) -/

/-- A bit range of STATUS is the union of what its nine fields put there. -/
theorem statusWord_extractLsb' (s : State) (a m : Nat) :
    s.statusWord.extractLsb' a m =
      (fieldAt 24 (BitVec.ofNat 4 (roundCount s.nr))).extractLsb' a m
        ||| (fieldAt 16 (BitVec.ofNat 5 s.outlen.val)).extractLsb' a m
        ||| (fieldAt 12 (BitVec.ofNat 4 s.fill.val)).extractLsb' a m
        ||| (fieldAt 8 (errNumber s.err)).extractLsb' a m ||| (fieldAt 4 s.mode.code).extractLsb' a m
        ||| (flagAt 3 s.dir).extractLsb' a m ||| (flagAt 2 s.keyed).extractLsb' a m
        ||| (flagAt 1 s.ready).extractLsb' a m ||| (flagAt 0 s.busy).extractLsb' a m := by
  simp only [State.statusWord, BitVec.extractLsb'_or]

/-- The fields of more than one bit, and the reserved ranges. -/
theorem statusWord_fields (s : State) :
    s.statusWord.extractLsb' 4 3 = s.mode.code ∧ s.statusWord.extractLsb' 8 4 = errNumber s.err ∧
    s.statusWord.extractLsb' 12 4 = BitVec.ofNat 4 s.fill.val ∧
    s.statusWord.extractLsb' 16 5 = BitVec.ofNat 5 s.outlen.val ∧
    s.statusWord.extractLsb' 21 3 = 0 ∧
    s.statusWord.extractLsb' 24 4 = BitVec.ofNat 4 (roundCount s.nr) ∧ s.statusWord.extractLsb' 28 4 = 0 := by
  refine ⟨?_, ?_, ?_, ?_, ?_, ?_, ?_⟩ <;>
    simp [statusWord_extractLsb', fieldAt_extractLsb'_self, fieldAt_extractLsb'_disjoint, flagAt_extractLsb'_disjoint]

/-- The one-bit fields, and the reserved bit 7. -/
theorem statusWord_flags (s : State) :
    s.statusWord.getLsbD 0 = s.busy ∧ s.statusWord.getLsbD 1 = s.ready ∧ s.statusWord.getLsbD 2 = s.keyed ∧
    s.statusWord.getLsbD 3 = s.dir ∧ s.statusWord.getLsbD 7 = false := by
  simp only [State.statusWord, BitVec.getLsbD_or, fieldAt_getLsbD, flagAt_getLsbD]
  simp

theorem roundCount_lt (r : Rounds) : roundCount r < 16 := by cases r <;> decide

/-- A write that reaches a register while BUSY = 0 does what the register does with it (20_memory.md R54, R57). -/
theorem step_idle_write (s : State) (off : Offset) (size : Nat) (v : Word) (rest : List HostOp) (r : Reg)
    (hb : s.busy = false) (hr : regOfAccess off size = some r) :
    step { s with host := .wr off size v :: rest } = .next ({ s with host := rest }.writeReg r v) :=
  busWrite_idle { s with host := rest } off size v r (by simpa [State.busy] using hb) hr

/-- Settles O20: the fields do not overlap, each fits its bits, and STATUS is a read-only register. -/
theorem statusWordLayout : Obligations.StatusWordLayout := by
  unfold Obligations.StatusWordLayout
  refine ⟨rfl, rfl, rfl, rfl, rfl, rfl, rfl, rfl, rfl, rfl, rfl, rfl, rfl, rfl, rfl, rfl, fun s => ?_⟩
  obtain ⟨busy, ready, keyed, dir, reserved7⟩ := statusWord_flags s
  obtain ⟨mode, err, fill, outlen, reserved21, nr, reserved28⟩ := statusWord_fields s
  have fillFits : (BitVec.ofNat 4 s.fill.val).toNat = s.fill.val := Nat.mod_eq_of_lt s.fill.isLt
  have outlenFits : (BitVec.ofNat 5 s.outlen.val).toNat = s.outlen.val := Nat.mod_eq_of_lt (by omega)
  have nrFits : (BitVec.ofNat 4 (roundCount s.nr)).toNat = roundCount s.nr := Nat.mod_eq_of_lt (roundCount_lt s.nr)
  refine ⟨busy, ready, keyed, dir, mode, reserved7, err, fill ▸ fillFits, outlen ▸ outlenFits, reserved21, nr ▸ nrFits,
    reserved28, fun v rest hb => ?_⟩
  exact step_idle_write s 0x08 4 v rest .status hb (regOfAccess_regOffset .status)

/-! The key schedule above the words in use (10_state.md R40 item 7) -/

/-- The expansion loop from word `i` on writes neither below `i` nor at `i + n` and above. -/
theorem expandFrom_getElem_outside (nk n i : Nat) (w : Schedule) (j : Nat) (hj : j < 60) (h : j < i ∨ i + n ≤ j) :
    (expandFrom nk n i w)[j] = w[j] := by
  induction n generalizing i w with
  | zero => rfl
  | succ k ih =>
    rw [expandFrom, ih (i + 1) _ (by omega), Vector.getElem_setIfInBounds_ne hj (by omega)]

theorem loadKey_getElem_of_ge (key : KeyBytes) (nk j : Nat) (hj : j < 60) (h : nk ≤ j) : (loadKey key nk)[j] = 0 := by
  simp [loadKey, Nat.not_lt.mpr h]

/-- The expansion of a key leaves the words from 4·(Nk + 7) on at 0 (40_aes_engine.md R110). -/
theorem keyExpansion_getElem_of_ge (key : KeyBytes) (klen j : Nat) (hj : j < 60) (h : 4 * (keyWords klen + 7) ≤ j) :
    (keyExpansion key klen).1[j] = 0 := by
  rw [keyExpansion, expandFrom_getElem_outside _ _ _ _ j hj (by omega), loadKey_getElem_of_ge key _ j hj (by omega)]

theorem keyLenLegal_iff (klen : BitVec 6) :
    keyLenLegal klen = true ↔ klen.toNat = 16 ∨ klen.toNat = 24 ∨ klen.toNat = 32 := by
  simp [keyLenLegal, or_assoc]

/-- A legal key's NR is Nk + 6 (40_aes_engine.md R106). -/
theorem roundCount_keyExpansion (key : KeyBytes) (klen : BitVec 6) (h : keyLenLegal klen = true) :
    roundCount (keyExpansion key klen.toNat).2 = keyWords klen.toNat + 6 := by
  rcases (keyLenLegal_iff klen).mp h with e | e | e <;> rw [keyExpansion, e] <;> rfl

theorem keyExpansion_rounds_ne_zero (key : KeyBytes) (klen : BitVec 6) (h : keyLenLegal klen = true) :
    (keyExpansion key klen.toNat).2 ≠ .zero := by
  intro zero
  have count := roundCount_keyExpansion key klen h
  rw [zero] at count
  simp [roundCount] at count

/-! What keeps the invariants of 10_state.md R40 -/

/-- Two states that agree on the elements the invariants of R40 speak of. -/
def SameInvFields (s t : State) : Prop :=
  s.acc = t.acc ∧ s.fill = t.fill ∧ s.keyed = t.keyed ∧ s.nr = t.nr ∧ s.ready = t.ready ∧ s.outlen = t.outlen ∧
  s.dout = t.dout ∧ s.w = t.w

/-- An update of any other field keeps the invariants. -/
theorem stateInv_congr {s t : State} (same : SameInvFields s t) (h : StateInv s) : StateInv t := by
  obtain ⟨acc, fill, keyed, nr, ready, outlen, dout, w⟩ := same
  simpa only [StateInv, AccTailZero, KeyedIffRounds, ReadyKeyed, ClosedEmpty, DoutTailZero, ScheduleTailZero, usedWords,
    acc, fill, keyed, nr, ready, outlen, dout, w] using h

/-- A completion record changes neither KEYED nor NR. -/
@[simp] theorem usedWords_complete (s : State) (code : ErrCode) (out : List Byte) :
    usedWords (s.complete code out) = usedWords s := by
  rw [usedWords, usedWords, complete_keyed, complete_nr]

/-- A completion record with at most 16 bytes of output keeps the invariants. -/
theorem stateInv_complete {s : State} (h : StateInv s) (code : ErrCode) {out : List Byte} (hlen : out.length ≤ 16) :
    StateInv (s.complete code out) := by
  obtain ⟨acc, rounds, ready, closed, -, sched⟩ := h
  have dout := complete_doutTail s code out hlen
  simp only [StateInv, AccTailZero, KeyedIffRounds, ReadyKeyed, ClosedEmpty, ScheduleTailZero, complete_acc,
    complete_fill, complete_keyed, complete_nr, complete_ready, complete_w, usedWords_complete]
  exact ⟨acc, rounds, ready, closed, dout, sched⟩

theorem stateInv_raiseError {s : State} (h : StateInv s) (code : ErrCode) : StateInv (s.raiseError code) :=
  stateInv_complete h code (Nat.zero_le 16)

theorem accTailZero_of_zero {s : State} (h : s.acc = zeroBlock) : AccTailZero s := by
  intro j _
  simp [h, zeroBlock]

theorem stateInv_closeStream {s : State} (h : StateInv s) : StateInv s.closeStream := by
  obtain ⟨-, rounds, -, -, dout, sched⟩ := h
  exact ⟨accTailZero_of_zero rfl, rounds, by simp [ReadyKeyed], fun _ => rfl, dout, sched⟩

theorem stateInv_openStream {s : State} (h : StateInv s) (mode : Mode) (dir : Bool) (hk : s.keyed = true) :
    StateInv (s.openStream mode dir) := by
  obtain ⟨-, rounds, -, -, dout, sched⟩ := h
  exact ⟨accTailZero_of_zero rfl, rounds, fun _ => hk, fun _ => rfl, dout, sched⟩

/-- A legal key loaded: KEYED, NR and W change together, and W is 0 above the 4·(NR + 1) words of its expansion. -/
theorem stateInv_loadKeyIf {s : State} (h : StateInv s) (lk : Bool) (klen : BitVec 6)
    (hl : lk = true → keyLenLegal klen = true) : StateInv (s.loadKeyIf lk klen) := by
  cases lk with
  | false => exact h
  | true =>
    obtain ⟨acc, -, -, closed, dout, -⟩ := h
    have legal := hl rfl
    have rounds : KeyedIffRounds (s.loadKeyIf true klen) := by
      simpa [KeyedIffRounds] using keyExpansion_rounds_ne_zero s.keyIn klen legal
    have sched : ScheduleTailZero (s.loadKeyIf true klen) := by
      intro j hj
      simp only [usedWords, loadKeyIf_keyed, Bool.true_or, loadKeyIf_nr, if_true,
        roundCount_keyExpansion s.keyIn klen legal] at hj
      exact keyExpansion_getElem_of_ge s.keyIn klen.toNat j.val j.isLt (by omega)
    exact ⟨acc, rounds, fun _ => rfl, closed, dout, sched⟩

theorem stateInv_loadIvIf {s : State} (h : StateInv s) (li : Bool) : StateInv (s.loadIvIf li) := by
  cases li <;> exact h

theorem stateInv_clearElements (s : State) : StateInv s.clearElements := by
  refine ⟨accTailZero_of_zero rfl, by simp [KeyedIffRounds], by simp [ReadyKeyed], fun _ => rfl, ?_, ?_⟩ <;>
    intro j _ <;> simp

theorem stateInv_modeBlock {s : State} (h : StateInv s) (x : Block) : StateInv (modeBlock s x).2 := h

/-- UPDATE's loop on an open stream: only FB, ACC and FILL change, and the stream stays open. -/
theorem stateInv_absorb {s : State} (h : StateInv s) (hr : s.ready = true) (bytes : List Byte) :
    StateInv (absorb s bytes).1 := by
  obtain ⟨accTail, rounds, ready, -, dout, sched⟩ := h
  have accTail' := absorb_accTail bytes s accTail
  obtain ⟨fb, acc, fill, e⟩ := absorb_frame bytes s
  rw [e] at accTail' ⊢
  exact ⟨accTail', rounds, ready, fun closed => absurd (hr.symm.trans closed) (by decide), dout, sched⟩

/-- An UPDATE puts out at most one block. -/
theorem absorb_dinBytes_length (s : State) (n : BitVec 5) (hn : n.toNat ≤ 16) :
    (absorb s (s.dinBytes n)).2.length ≤ 16 := by
  have := s.fill.isLt
  rw [(absorb_counts (s.dinBytes n) s).2, dinBytes_length s n hn]
  omega

theorem finalResult_length_le (s : State) : (finalResult s).2.length ≤ 16 := by
  have := s.fill.isLt
  rw [finalResult_length]
  split <;> omega

/-- Every command keeps the invariants. -/
theorem exec_keeps_stateInv {i : Instr} {s t : State} (h : StateInv s) (he : exec i s = .next t) : StateInv t := by
  cases i with
  | nop => cases he; exact stateInv_complete h _ (Nat.zero_le 16)
  | init mode dir lk li klen ivlen =>
    simp only [exec] at he
    rcases execInit_cases mode dir lk li klen ivlen s with ⟨code, -, -, e⟩ | ⟨checks, e⟩ <;> rw [e] at he <;> cases he
    · exact stateInv_complete (stateInv_closeStream h) code (Nat.zero_le 16)
    · obtain ⟨keyLen, -, -, keyHeld⟩ := (initError_none_iff s mode lk li klen ivlen).mp checks
      have keyed : ((s.loadKeyIf lk klen).loadIvIf li).keyed = true := by
        cases lk with
        | false => simpa using keyHeld rfl
        | true => simp
      have loaded := stateInv_loadIvIf (stateInv_loadKeyIf h lk klen keyLen) li
      exact stateInv_complete (stateInv_openStream loaded mode dir keyed) _ (Nat.zero_le 16)
  | update n =>
    simp only [exec] at he
    rcases execUpdate_cases n s with ⟨-, e⟩ | ⟨-, -, e⟩ | ⟨hn, ready, e⟩ <;> rw [e] at he <;> cases he
    · exact stateInv_raiseError h .cmd
    · exact stateInv_raiseError h .state
    · exact stateInv_complete (stateInv_absorb h ready _) _ (absorb_dinBytes_length s n hn)
  | final =>
    simp only [exec, execFinal] at he
    split at he <;> cases he
    · exact stateInv_raiseError h .state
    · have inv := stateInv_closeStream h
      have closed : StateInv { s.closeStream with fb := s.ivcfg } := inv
      exact stateInv_complete closed _ (finalResult_length_le s)
  | block n =>
    simp only [exec] at he
    rcases execBlock_cases n s with ⟨-, e⟩ | ⟨-, -, e⟩ | ⟨-, -, e⟩ | ⟨-, -, e⟩ <;> rw [e] at he <;> cases he
    · exact stateInv_raiseError h .cmd
    · exact stateInv_raiseError h .state
    · exact stateInv_raiseError h .input
    · exact stateInv_complete (stateInv_modeBlock h s.din) _ (by simp)
  | zeroize => cases he; exact stateInv_complete (stateInv_clearElements s) _ (Nat.zero_le 16)
  | reserved w => cases he; exact stateInv_complete h _ (Nat.zero_le 16)

/-! What the host's accesses keep -/

/-- A register write stores an operand, puts a command in flight or is ignored: no field of R40 changes. -/
theorem stateInv_writeReg {s : State} (h : StateInv s) (r : Reg) (v : Word) : StateInv (s.writeReg r v) := by
  have same : SameInvFields s (s.writeReg r v) := by cases r <;> simp [SameInvFields, State.writeReg]
  exact stateInv_congr same h

theorem busWrite_keeps_stateInv {s t : State} {off : Offset} {size : Nat} {v : Word} (h : StateInv s)
    (hw : busWrite s off size v = .next t) : StateInv t := by
  unfold busWrite at hw
  split at hw
  · cases hw
  · split at hw <;> cases hw
    exact stateInv_writeReg h _ v

theorem idleRead_keeps_stateInv {s t : State} {off : Offset} {size : Nat} (h : StateInv s)
    (hr : idleRead s off size = .next t) : StateInv t := by
  unfold idleRead at hr
  split at hr <;> cases hr
  exact h

/-- A STATUS read while BUSY = 1 completes the command or leaves it executing. -/
theorem busyStatusRead_keeps_stateInv {s t : State} {f : InFlight} (h : StateInv s)
    (hr : busyStatusRead s f = .next t) : StateInv t := by
  unfold busyStatusRead at hr
  split at hr
  · obtain ⟨u, he, rfl⟩ := mapNext_eq_next hr
    have done := exec_keeps_stateInv h he
    exact done
  · cases hr
    exact h

theorem busRead_keeps_stateInv {s t : State} {off : Offset} {size : Nat} (h : StateInv s)
    (hr : busRead s off size = .next t) : StateInv t := by
  unfold busRead at hr
  split at hr
  · exact idleRead_keeps_stateInv h hr
  · split at hr
    · exact busyStatusRead_keeps_stateInv h hr
    · cases hr

theorem pollOnce_keeps_stateInv {s t : State} {rest : List HostOp} (h : StateInv s)
    (hp : pollOnce s rest = .next t) : StateInv t := by
  obtain ⟨u, hr, rfl⟩ := mapNext_eq_next hp
  have read : StateInv u := busRead_keeps_stateInv (s := { s with host := rest }) h hr
  split <;> exact read

/-- Settles O53: by the next event of the host, each of which keeps the invariants. -/
theorem stepKeepsInvariants : Obligations.StepKeepsInvariants := by
  unfold Obligations.StepKeepsInvariants
  intro s t h hstep
  unfold step hostStep at hstep
  split at hstep
  case h_1 => cases hstep; exact h
  case h_2 off size rest _ => exact busRead_keeps_stateInv (s := { s with host := rest }) h hstep
  case h_3 off size v rest _ => exact busWrite_keeps_stateInv (s := { s with host := rest }) h hstep
  case h_4 => exact pollOnce_keeps_stateInv h hstep
  case h_5 => cases hstep; exact stateInv_clearElements s

end Sys2Proof.Machine
end

section
/-! PROOFS. The family 20_memory.md: the access kinds of the registers (R51, R54). -/

namespace Sys2Proof.Machine

/-! The access kinds of the register map (20_memory.md R51) -/

/-- The registers of kind RO. -/
def Reg.readOnly (r : Reg) : Bool :=
  match r with
  | .id | .status | .osize | .usize | .dout _ => true
  | .cmd | .qlen | .key _ | .iv _ | .din _ => false

/-- The registers of kind WO. -/
def Reg.writeOnly (r : Reg) : Bool :=
  match r with
  | .cmd | .key _ => true
  | .id | .status | .qlen | .osize | .usize | .iv _ | .din _ | .dout _ => false

theorem writeReg_of_readOnly (s : State) (r : Reg) (v : Word) (h : r.readOnly = true) : s.writeReg r v = s := by
  cases r with
  | id | status | osize | usize | dout => rfl
  | cmd | qlen | key | iv | din => cases h

theorem readReg_of_writeOnly (s : State) (r : Reg) (h : r.writeOnly = true) : s.readReg r = 0 := by
  cases r with
  | cmd | key => rfl
  | id | status | qlen | osize | usize | iv | din | dout => cases h

/-- The offsets of the read-only registers are the listed ones, and no others. -/
theorem mem_readOnly_offsets_iff (off : Offset) :
    off.toNat ∈ [0x00, 0x08, 0x10, 0x14, 0x60, 0x64, 0x68, 0x6C] ↔
      ∃ r, regOfAccess off 4 = some r ∧ r.readOnly = true := by
  rw [← Option.any_eq_true]
  revert off
  decide

/-- The offsets of the write-only registers are the listed ones, and no others. -/
theorem mem_writeOnly_offsets_iff (off : Offset) :
    off.toNat ∈ [0x04, 0x20, 0x24, 0x28, 0x2C, 0x30, 0x34, 0x38, 0x3C] ↔
      ∃ r, regOfAccess off 4 = some r ∧ r.writeOnly = true := by
  rw [← Option.any_eq_true]
  revert off
  decide

/-! Reads and writes through `step` while BUSY = 0 -/

theorem idleRead_of_regOfAccess (s : State) {off : Offset} {size : Nat} {r : Reg} (hr : regOfAccess off size = some r) :
    idleRead s off size = .next { s with rdata := s.readReg r } := by
  rw [idleRead, hr]

/-- A read that reaches a register while BUSY = 0 returns it and changes nothing else (20_memory.md R54, R57). -/
theorem step_idle_read (s : State) (off : Offset) (size : Nat) (rest : List HostOp) (r : Reg)
    (hb : s.busy = false) (hr : regOfAccess off size = some r) :
    step { s with host := .rd off size :: rest } =
      .next { s with host := rest, rdata := { s with host := rest }.readReg r } := by
  have idle : s.inflight = none := by simpa [State.busy] using hb
  exact (busRead_idle { s with host := rest } off size idle).trans (idleRead_of_regOfAccess _ hr)

/-- Settles O16: each listed offset reaches a register of the kind named, and QLEN stands at 0x0C. -/
theorem accessKindsOfRegisters : Obligations.AccessKindsOfRegisters := by
  unfold Obligations.AccessKindsOfRegisters
  intro s off v rest hb
  refine ⟨fun listed => ?_, fun listed => ?_, ?_⟩
  · obtain ⟨r, reached, readOnly⟩ := (mem_readOnly_offsets_iff off).mp listed
    rw [step_idle_write s off 4 v rest r hb reached, writeReg_of_readOnly _ r v readOnly]
  · obtain ⟨r, reached, writeOnly⟩ := (mem_writeOnly_offsets_iff off).mp listed
    rw [step_idle_read s off 4 rest r hb reached, readReg_of_writeOnly _ r writeOnly]
  · exact step_idle_write s 0x0C 4 v rest .qlen hb (regOfAccess_regOffset .qlen)

end Sys2Proof.Machine
end

section
/-! PROOFS. The family 30_encoding.md: the illegal words (R80), and INIT's don't-care fields (R77). -/

namespace Sys2Proof

/-! When a word is illegal, format by format (30_encoding.md R71 to R73, R80) -/

/-- A word of an opcode of format N is illegal exactly for its bits above the opcode. -/
theorem decodeWord_formatN_reserved_iff {c : Word} {i : Instr} (format : decodeCommand c = decodeN c i)
    (legal : i ≠ .reserved c) : decodeWord c = .reserved c ↔ c.extractLsb' 4 28 ≠ 0 := by
  by_cases bits : c.extractLsb' 4 28 = 0
  · simp only [decodeWord, format, decodeN, if_pos bits]
    exact iff_of_false legal (not_not.mpr bits)
  · simp only [decodeWord, format, decodeN, if_neg bits]
    exact iff_of_true trivial bits

/-- A word of an opcode of format C is illegal exactly for its bits above COUNT, or for COUNT. -/
theorem decodeWord_formatC_reserved_iff {c : Word} {mk : BitVec 5 → Instr} (format : decodeCommand c = decodeC c mk)
    (legal : ∀ n, mk n ≠ .reserved c) :
    decodeWord c = .reserved c ↔ c.extractLsb' 9 23 ≠ 0 ∨ 17 ≤ (c.extractLsb' 4 5).toNat := by
  by_cases bits : c.extractLsb' 9 23 = 0
  · by_cases count : (c.extractLsb' 4 5).toNat ≤ 16
    · simp only [decodeWord, format, decodeC, if_pos bits, if_pos count]
      exact iff_of_false (legal _) (not_or.mpr ⟨not_not.mpr bits, Nat.not_le_of_lt (Nat.lt_succ_of_le count)⟩)
    · simp only [decodeWord, format, decodeC, if_pos bits, if_neg count]
      exact iff_of_true trivial (.inr (Nat.lt_of_not_le count))
  · simp only [decodeWord, format, decodeC, if_neg bits]
    exact iff_of_true trivial (.inl bits)

/-- A word of INIT's opcode is illegal exactly for its bits above IVLEN, or for MODE. -/
theorem decodeWord_formatI_reserved_iff {c : Word} (format : decodeCommand c = decodeI c) :
    decodeWord c = .reserved c ↔ c.extractLsb' 21 11 ≠ 0 ∨ 5 ≤ (c.extractLsb' 4 3).toNat := by
  by_cases bits : c.extractLsb' 21 11 = 0
  · obtain ⟨atMost4, m, named, -⟩ | ⟨above4, unnamed⟩ := Mode.ofCode_cases (c.extractLsb' 4 3)
    · simp only [decodeWord, format, decodeI, if_pos bits, named]
      exact iff_of_false Instr.noConfusion
        (not_or.mpr ⟨not_not.mpr bits, Nat.not_le_of_lt (Nat.lt_succ_of_le atMost4)⟩)
    · simp only [decodeWord, format, decodeI, if_pos bits, unnamed]
      exact iff_of_true trivial (.inr above4)
  · simp only [decodeWord, format, decodeI, if_neg bits]
    exact iff_of_true trivial (.inl bits)

end Sys2Proof

namespace Sys2Proof.Machine

/-! The effect of an illegal word (44_control.md R192) -/

/-- A completion without output writes the completion record and nothing else (60_exceptions.md R202). -/
theorem complete_noOutput (s : State) (code : ErrCode) :
    s.complete code [] = { s with err := code, outlen := 0, dout := Vector.replicate 16 0, inflight := none } := by
  rw [State.complete, padBlock_nil]
  rfl

theorem exec_reserved (w : Word) (s : State) : exec (.reserved w) s = .next (s.complete .cmd []) := rfl

/-- Settles O5: each opcode's format says when its words are illegal, and an illegal word is a completion without
output. -/
theorem illegalWordsCompleteWithErrCmd : Obligations.IllegalWordsCompleteWithErrCmd := by
  unfold Obligations.IllegalWordsCompleteWithErrCmd
  intro c
  refine ⟨?_, fun s => by rw [exec_reserved, complete_noOutput]⟩
  match opc : (c.extractLsb' 0 4).toNat with
  | 0 => rw [decodeWord_formatN_reserved_iff (i := .nop) (by simp only [decodeCommand, opc]) (by simp)]; simp
  | 1 => rw [decodeWord_formatI_reserved_iff (by simp only [decodeCommand, opc])]; simp
  | 2 => rw [decodeWord_formatC_reserved_iff (mk := .update) (by simp only [decodeCommand, opc]) (by simp)]; simp
  | 3 => rw [decodeWord_formatN_reserved_iff (i := .final) (by simp only [decodeCommand, opc]) (by simp)]; simp
  | 4 => rw [decodeWord_formatC_reserved_iff (mk := .block) (by simp only [decodeCommand, opc]) (by simp)]; simp
  | 5 => rw [decodeWord_formatN_reserved_iff (i := .zeroize) (by simp only [decodeCommand, opc]) (by simp)]; simp
  | n + 6 => simp [decodeWord, decodeCommand, opc]

/-! INIT's don't-care fields (30_encoding.md R77) -/

theorem exec_init (mode : Mode) (dir lk li : Bool) (klen : BitVec 6) (ivlen : BitVec 5) (s : State) :
    exec (.init mode dir lk li klen ivlen) s = execInit mode dir lk li klen ivlen s := rfl

/-- With LK = 0 no check looks at KLEN (41_init.md R141). -/
theorem initError_noKey (s : State) (mode : Mode) (li : Bool) (klen klen' : BitVec 6) (ivlen : BitVec 5) :
    initError s mode false li klen ivlen = initError s mode false li klen' ivlen := rfl

/-- With LI = 0 no check looks at IVLEN (41_init.md R141). -/
theorem initError_noIv (s : State) (mode : Mode) (lk : Bool) (klen : BitVec 6) (ivlen ivlen' : BitVec 5) :
    initError s mode lk false klen ivlen = initError s mode lk false klen ivlen' := rfl

/-- With LK = 0 no key is loaded, whatever KLEN is (41_init.md R142). -/
@[simp] theorem loadKeyIf_false (s : State) (klen : BitVec 6) : s.loadKeyIf false klen = s := rfl

theorem formOf_init (mode : Mode) (dir lk li : Bool) (klen : BitVec 6) (ivlen : BitVec 5) :
    formOf (.init mode dir lk li klen ivlen) =
      .init mode dir (if lk then some klen else none) (if li then some ivlen else none) := rfl

/-- Settles O6: KLEN stands in INIT's check and load of a key only, and IVLEN in its check of an IV only. -/
theorem dontCareFieldsAreIgnored : Obligations.DontCareFieldsAreIgnored := by
  unfold Obligations.DontCareFieldsAreIgnored
  intro mode dir li lk klen ivlen s
  refine ⟨?_, ?_, formOf_init mode dir lk li klen ivlen⟩
  · rw [exec_init, exec_init, execInit, execInit, initError_noKey s mode li klen 0 ivlen, loadKeyIf_false,
      loadKeyIf_false]
  · rw [exec_init, exec_init, execInit, execInit, initError_noIv s mode lk klen ivlen 0]

end Sys2Proof.Machine
end

section
/-! PROOFS. The family 40_aes_engine.md: the field (R101, R103), the S-box (R104, R105), the key schedule (R110, R111), and
the byte and column transformations of a round (R115 to R117). -/

namespace Sys2Proof.Machine

/-! Multiplication in GF(2^8) is bilinear, commutative and associative (40_aes_engine.md R101) -/

theorem polyMul_xor_left (a b c : Byte) (n : Nat) : polyMul (a ^^^ b) c n = polyMul a c n ^^^ polyMul b c n := by
  induction n with
  | zero => simp [polyMul]
  | succ k ih =>
    simp only [polyMul, ih]
    cases c.getLsbD k
    · simp
    · simp only [if_true, BitVec.setWidth_xor, BitVec.shiftLeft_xor_distrib]
      ac_rfl

theorem gfMul_xor_left (a b c : Byte) : gfMul (a ^^^ b) c = gfMul a c ^^^ gfMul b c := by
  simp [gfMul, polyMul_xor_left, polyReduce_xor]

/-- A byte is the sum of its bits. -/
theorem byte_eq_xor_bits (x : Byte) :
    x = (List.finRange 8).foldr (fun i y => (if x.getLsbD i.val then 1#8 <<< i.val else 0) ^^^ y) 0 := by
  revert x
  decide +kernel

/-- What holds of each single bit and of sums holds of every byte. -/
theorem byte_xor_induction {P : Byte → Prop} (bit : ∀ i : Fin 8, P (1#8 <<< i.val))
    (xor : ∀ x y, P x → P y → P (x ^^^ y)) (x : Byte) : P x := by
  have zero : P 0 := xor _ _ (bit 0) (bit 0)
  rw [byte_eq_xor_bits x]
  induction List.finRange 8 with
  | nil => exact zero
  | cons i is ih =>
    refine xor _ _ ?_ ih
    split
    · exact bit i
    · exact zero

theorem gfMul_comm (a b : Byte) : gfMul a b = gfMul b a := by
  induction a using byte_xor_induction with
  | bit i =>
    induction b using byte_xor_induction with
    | bit j => revert i j; decide
    | xor b c hb hc => rw [gfMul_xor, gfMul_xor_left, hb, hc]
  | xor a c ha hc => rw [gfMul_xor, gfMul_xor_left, ha, hc]

theorem gfMul_assoc (a b c : Byte) : gfMul (gfMul a b) c = gfMul a (gfMul b c) := by
  induction a using byte_xor_induction with
  | xor a a' ha ha' => simp only [gfMul_xor_left, ha, ha']
  | bit i =>
    induction b using byte_xor_induction with
    | xor b b' hb hb' => simp only [gfMul_xor, gfMul_xor_left, hb, hb']
    | bit j =>
      induction c using byte_xor_induction with
      | xor c c' hc hc' => simp only [gfMul_xor, hc, hc']
      | bit k => revert i j k; decide +kernel

@[simp] theorem gfMul_one_left (b : Byte) : gfMul 1#8 b = b := by
  induction b using byte_xor_induction with
  | bit i => revert i; decide
  | xor b c hb hc => rw [gfMul_xor, hb, hc]

@[simp] theorem gfMul_zero_left (b : Byte) : gfMul 0#8 b = 0 := by
  have double := gfMul_xor_left 0#8 0#8 b
  rwa [BitVec.xor_self, BitVec.xor_self] at double

/-! The inverse (40_aes_engine.md R103) -/

/-- The search finds a factor whenever there is one below its bound. -/
theorem gfMul_inverseBelow {b c : Byte} {n : Nat} (product : gfMul b c = 1) (below : c.toNat < n) :
    gfMul b (inverseBelow b n) = 1 := by
  induction n with
  | zero => exact absurd below (Nat.not_lt_zero _)
  | succ k ih =>
    rw [inverseBelow]
    split
    next found => exact found
    next missed =>
      have other : c.toNat ≠ k := by
        rintro rfl
        exact missed (by simpa using product)
      exact ih (by omega)

/-- A byte with an inverse has one only, and `gfInv` is it. -/
theorem gfInv_eq_of_gfMul_eq_one {b c : Byte} (product : gfMul b c = 1) : c = gfInv b := by
  have found : gfMul b (gfInv b) = 1 := gfMul_inverseBelow product c.isLt
  calc c = gfMul 1 c := (gfMul_one_left c).symm
    _ = gfMul (gfMul (gfInv b) b) c := by rw [gfMul_comm (gfInv b), found]
    _ = gfMul 1 (gfInv b) := by rw [gfMul_assoc, product, gfMul_comm]
    _ = gfInv b := gfMul_one_left (gfInv b)

theorem gfInv_zero : gfInv 0 = 0 := by
  have search (n : Nat) : inverseBelow 0#8 n = 0#8 := by
    induction n with
    | zero => rfl
    | succ k ih => simp [inverseBelow, ih]
  exact search 256

/-! The S-box (40_aes_engine.md R104, R105) -/

/-- The inverse of the affine map of R104. -/
def invAffine (b : Byte) : Byte := b.rotateLeft 1 ^^^ b.rotateLeft 3 ^^^ b.rotateLeft 6 ^^^ 0x05

theorem affine_invAffine (b : Byte) : affine (invAffine b) = b := by
  revert b
  decide +kernel

/-- Undoing the affine map on the printed table gives a factor with product 01, so the table itself shows that inverses
exist. -/
theorem gfMul_invAffine_sbox (b : Byte) (nonzero : b ≠ 0) : gfMul b (invAffine (sbox b)) = 1 := by
  revert b
  decide +kernel

/-- Settles O24: the S-box table holds an inverse of each nonzero byte, and associativity makes it the only one. -/
theorem fieldInverseIsUnique : Obligations.FieldInverseIsUnique := by
  unfold Obligations.FieldInverseIsUnique
  refine ⟨gfInv_zero, fun b nonzero => ⟨?_, fun c product => gfInv_eq_of_gfMul_eq_one product⟩⟩
  exact gfMul_inverseBelow (gfMul_invAffine_sbox b nonzero) (BitVec.isLt _)

/-- The entries of the table are the affine images of the inverses, as whole bytes. -/
theorem sbox_eq_affine_gfInv (a : Byte) : sbox a = affine (gfInv a) := by
  by_cases zero : a = 0
  · rw [zero, gfInv_zero]
    decide
  · rw [← gfInv_eq_of_gfMul_eq_one (gfMul_invAffine_sbox a zero), affine_invAffine]

/-- Rotating a byte counts its bits mod 8. -/
theorem getLsbD_rotateRight_byte (b : Byte) (i : Fin 8) {n : Nat} (hn : n < 8) :
    (b.rotateRight n).getLsbD i.val = b.getLsbD ((i.val + n) % 8) := by
  rw [BitVec.getLsbD_rotateRight, Nat.mod_eq_of_lt hn]
  by_cases noWrap : i.val < 8 - n
  · have index : (i.val + n) % 8 = n + i.val := by omega
    simp [noWrap, index]
  · have index : (i.val + n) % 8 = i.val - (8 - n) := by omega
    simp [noWrap, index]

theorem affine_getLsbD (b : Byte) (i : Fin 8) : (affine b).getLsbD i.val =
    (b.getLsbD i.val ^^ b.getLsbD ((i.val + 4) % 8) ^^ b.getLsbD ((i.val + 5) % 8) ^^
      b.getLsbD ((i.val + 6) % 8) ^^ b.getLsbD ((i.val + 7) % 8) ^^ (0x63#8).getLsbD i.val) := by
  simp only [affine, BitVec.getLsbD_xor, getLsbD_rotateRight_byte, Nat.reduceLT, BitVec.ofNat_eq_ofNat]

/-- Settles O25: the table's byte is the affine image of the inverse, read bit by bit. -/
theorem sboxIsAffineImageOfInverse : Obligations.SboxIsAffineImageOfInverse := by
  unfold Obligations.SboxIsAffineImageOfInverse
  intro a i
  rw [sbox_eq_affine_gfInv, affine_getLsbD]

@[simp] theorem invSbox_sbox (a : Byte) : invSbox (sbox a) = a := by
  revert a
  decide +kernel

@[simp] theorem sbox_invSbox (a : Byte) : sbox (invSbox a) = a := by
  revert a
  decide +kernel

/-- Settles O26: the two printed tables undo each other at each of the 256 bytes. -/
theorem inverseSboxUndoesSbox : Obligations.InverseSboxUndoesSbox := by
  unfold Obligations.InverseSboxUndoesSbox
  exact fun a => ⟨invSbox_sbox a, sbox_invSbox a⟩

/-! The key schedule (40_aes_engine.md R110) -/

theorem wordAt_of_lt (w : Schedule) {i : Nat} (hi : i < 60) : wordAt w i = w[i] := by
  simp [wordAt, hi]

theorem wordAt_of_ge (w : Schedule) {i : Nat} (hi : 60 ≤ i) : wordAt w i = 0 := by
  simp [wordAt, hi]

theorem wordAt_setIfInBounds_self (w : Schedule) {i : Nat} (v : Word) (hi : i < 60) :
    wordAt (w.setIfInBounds i v) i = v := by
  rw [wordAt_of_lt _ hi, Vector.getElem_setIfInBounds_self]

theorem wordAt_loadKey_of_lt (key : KeyBytes) {nk i : Nat} (h : i < nk) (hi : i < 60) :
    wordAt (loadKey key nk) i = packWord key i := by
  simp [wordAt_of_lt _ hi, loadKey, h]

/-- The expansion loop leaves the words outside its range as they are. -/
theorem wordAt_expandFrom_outside (nk n i : Nat) (w : Schedule) (j : Nat) (h : j < i ∨ i + n ≤ j) :
    wordAt (expandFrom nk n i w) j = wordAt w j := by
  rcases Nat.lt_or_ge j 60 with hj | hj
  · rw [wordAt_of_lt _ hj, wordAt_of_lt _ hj, expandFrom_getElem_outside nk n i w j hj h]
  · rw [wordAt_of_ge _ hj, wordAt_of_ge _ hj]

/-- `temp` looks at the word before only. -/
theorem expandTemp_congr (nk i : Nat) {v w : Schedule} (h : wordAt v (i - 1) = wordAt w (i - 1)) :
    expandTemp nk i v = expandTemp nk i w := by
  simp only [expandTemp, h]

/-- Every word the loop writes satisfies the recurrence in the finished schedule: the words it was made from are not
written again. -/
theorem wordAt_expandFrom_inside {nk : Nat} (hnk : 0 < nk) (n i : Nat) (w : Schedule) (hi : nk ≤ i) {j : Nat}
    (hij : i ≤ j) (hj : j < i + n) (bound : j < 60) :
    wordAt (expandFrom nk n i w) j =
      wordAt (expandFrom nk n i w) (j - nk) ^^^ expandTemp nk j (expandFrom nk n i w) := by
  induction n generalizing i w with
  | zero => omega
  | succ k ih =>
    rcases Nat.eq_or_lt_of_le hij with rfl | later
    · have kept (l : Nat) (hl : l < i) : wordAt (expandFrom nk (k + 1) i w) l = wordAt w l :=
        wordAt_expandFrom_outside nk (k + 1) i w l (.inl hl)
      rw [kept (i - nk) (by omega), expandTemp_congr nk i (kept (i - 1) (by omega)), expandFrom,
        wordAt_expandFrom_outside _ _ _ _ i (by omega), wordAt_setIfInBounds_self w _ bound]
    · rw [expandFrom]
      exact ih (i + 1) _ (by omega) later (by omega)

theorem keyWords_four_mul (nk : Nat) : keyWords (4 * nk) = nk := Nat.mul_div_cancel_left nk (by decide)

/-- The expanded words are the loop's, run over the loaded key from word Nk to word 4·(Nk + 7) - 1. -/
theorem keyExpansion_words (key : KeyBytes) (nk : Nat) :
    (keyExpansion key (4 * nk)).1 = expandFrom nk (4 * (nk + 7) - nk) nk (loadKey key nk) := by
  rw [keyExpansion, keyWords_four_mul]

/-- The first Nk words are the key's. -/
theorem wordAt_keyExpansion_of_lt (key : KeyBytes) {nk i : Nat} (h : i < nk) (hi : i < 60) :
    wordAt (keyExpansion key (4 * nk)).1 i = packWord key i := by
  rw [keyExpansion_words, wordAt_expandFrom_outside _ _ _ _ i (.inl h), wordAt_loadKey_of_lt key h hi]

theorem wordAt_keyExpansion_of_ge (key : KeyBytes) {nk i : Nat} (h : 4 * (nk + 7) ≤ i) :
    wordAt (keyExpansion key (4 * nk)).1 i = 0 := by
  rcases Nat.lt_or_ge i 60 with hi | hi
  · rw [wordAt_of_lt _ hi, keyExpansion_getElem_of_ge key _ i hi (by rwa [keyWords_four_mul])]
  · exact wordAt_of_ge _ hi

/-- Settles O27: the key words and the zeros lie outside the loop's range, and inside it every word satisfies the
recurrence. -/
theorem keyExpansionEquations : Obligations.KeyExpansionEquations := by
  unfold Obligations.KeyExpansionEquations
  intro key nk legal
  refine ⟨?_, fun i hi => wordAt_keyExpansion_of_lt key hi (by omega), fun i hi above => ?_,
    fun i hi => wordAt_keyExpansion_of_ge key hi⟩
  · rcases legal with rfl | rfl | rfl
    · exact roundCount_keyExpansion key 16 rfl
    · exact roundCount_keyExpansion key 24 rfl
    · exact roundCount_keyExpansion key 32 rfl
  · rw [keyExpansion_words]
    exact wordAt_expandFrom_inside (by omega) _ nk _ (Nat.le_refl nk) hi (by omega) (by omega)

/-! Round keys (40_aes_engine.md R111) -/

theorem wordOfBytes_extractLsb' (a b c d : Byte) :
    (wordOfBytes a b c d).extractLsb' 24 8 = a ∧ (wordOfBytes a b c d).extractLsb' 16 8 = b ∧
    (wordOfBytes a b c d).extractLsb' 8 8 = c ∧ (wordOfBytes a b c d).extractLsb' 0 8 = d := by
  refine ⟨?_, ?_, ?_, ?_⟩ <;>
    simp [wordOfBytes, BitVec.extractLsb'_or, fieldAt_extractLsb'_self, fieldAt_extractLsb'_disjoint]

/-- Byte `j` of a packed word, counted from the most significant (20_memory.md R55). -/
theorem packWord_extractLsb' {n : Nat} (b : Vector Byte n) (k : Nat) (j : Fin 4) :
    (packWord b k).extractLsb' (24 - 8 * j.val) 8 = b[4 * k + j.val]?.getD 0 := by
  obtain ⟨byte0, byte1, byte2, byte3⟩ := wordOfBytes_extractLsb' (b[4 * k]?.getD 0) (b[4 * k + 1]?.getD 0)
    (b[4 * k + 2]?.getD 0) (b[4 * k + 3]?.getD 0)
  match j with
  | 0 => exact byte0
  | 1 => exact byte1
  | 2 => exact byte2
  | 3 => exact byte3

theorem roundKey_getElem (w : Schedule) (r k : Nat) (hk : k < 16) :
    (roundKey w r)[k] = (wordAt w (4 * r + k / 4)).extractLsb' (24 - 8 * (k % 4)) 8 := by
  simp [roundKey]

/-- Settles O28: RK(0) is made of the first four words of W, which are key words for every legal Nk. -/
theorem roundKeysAreBigEndianWords : Obligations.RoundKeysAreBigEndianWords := by
  unfold Obligations.RoundKeysAreBigEndianWords
  refine ⟨fun w r c j => ?_, fun key nk legal => List.ext_getElem (by simp) fun k hk _ => ?_⟩
  · have inBlock : 4 * c.val + j.val < 16 := by omega
    have column : (4 * c.val + j.val) / 4 = c.val := by omega
    have byte : (4 * c.val + j.val) % 4 = j.val := by omega
    simp only [inBlock, Vector.getElem?_eq_getElem, Option.getD_some, roundKey_getElem, column, byte]
  · have inBlock : k < 16 := by simpa using hk
    have whole : 4 * (k / 4) + k % 4 = k := Nat.div_add_mod k 4
    have keyByte := packWord_extractLsb' key (k / 4) ⟨k % 4, Nat.mod_lt k (by decide)⟩
    rw [Vector.getElem_toList, roundKey_getElem _ _ _ inBlock, Nat.mul_zero, Nat.zero_add,
      wordAt_keyExpansion_of_lt key (by omega) (by omega), keyByte]
    simp [whole, show k < 32 by omega]

/-! Cells (40_aes_engine.md R113) -/

/-- A cell's row and column count mod 4. -/
theorem cell_congr (s : Block) {r r' c c' : Nat} (row : r % 4 = r' % 4) (column : c % 4 = c' % 4) :
    cell s r c = cell s r' c' := by
  simp only [cell, row, column]

/-- Byte `k` of a block is the cell of row `k % 4` and column `k / 4`. -/
theorem cell_mod_div (s : Block) {k : Nat} (hk : k < 16) : cell s (k % 4) (k / 4) = s[k] := by
  simp only [cell]
  congr 1
  omega

/-- The byte of row `r` in column `c`, by its index. -/
theorem getD_four_mul_add (s : Block) (c : Fin 4) (r : Nat) (hr : r < 4) :
    s[4 * c.val + r]?.getD 0 = cell s r c.val := by
  have index : r % 4 + 4 * (c.val % 4) = 4 * c.val + r := by omega
  simp [cell, index, show 4 * c.val + r < 16 by omega]

/-! ShiftRows (40_aes_engine.md R115) -/

/-- ShiftRows is multiplication of the index by 5, mod 16. -/
theorem shiftRows_getElem (s : Block) (k : Nat) (hk : k < 16) : (shiftRows s)[k] = s[5 * k % 16] := by
  have index : ∀ k < 16, k % 4 % 4 + 4 * ((k / 4 + k % 4) % 4) = 5 * k % 16 := by decide
  simp only [shiftRows, Vector.getElem_ofFn, cell, index k hk]

/-- InvShiftRows is multiplication of the index by 13, the inverse of 5 mod 16. -/
theorem invShiftRows_getElem (s : Block) (k : Nat) (hk : k < 16) : (invShiftRows s)[k] = s[13 * k % 16] := by
  have index : ∀ k < 16, k % 4 % 4 + 4 * ((k / 4 + 4 - k % 4) % 4) = 13 * k % 16 := by decide
  simp only [invShiftRows, Vector.getElem_ofFn, cell, index k hk]

/-- A block whose byte `k` is byte `f k` of `s`, as the list of those bytes in order. -/
theorem toList_of_permuted {s t : Block} {f : Nat → Nat} (hf : ∀ k, f k < 16)
    (h : ∀ k (hk : k < 16), t[k] = s[f k]'(hf k)) :
    t.toList = ((List.range 16).map f).map (fun i => s[i]?.getD 0) := by
  refine List.ext_getElem (by simp) fun k hk _ => ?_
  have inBlock : k < 16 := by simpa using hk
  simp [h k inBlock, hf k]

/-- Settles O29: the printed indices are 5k and 13k mod 16, in order. -/
theorem shiftRowsPermutation : Obligations.ShiftRowsPermutation := by
  unfold Obligations.ShiftRowsPermutation
  intro s
  have inBlock (n : Nat) : n % 16 < 16 := Nat.mod_lt n (by decide)
  exact ⟨toList_of_permuted (f := fun k => 5 * k % 16) (fun _ => inBlock _) (shiftRows_getElem s),
    toList_of_permuted (f := fun k => 13 * k % 16) (fun _ => inBlock _) (invShiftRows_getElem s)⟩

/-! MixColumns (40_aes_engine.md R116, R117) -/

/-- A cell of the product, from the cells of its column, row by row on from its own. -/
theorem cell_mixWith (m0 m1 m2 m3 : Byte) (s : Block) (r c : Nat) :
    cell (mixWith m0 m1 m2 m3 s) r c =
      gfMul m0 (cell s r c) ^^^ gfMul m1 (cell s (r + 1) c) ^^^ gfMul m2 (cell s (r + 2) c) ^^^
        gfMul m3 (cell s (r + 3) c) := by
  have same (i : Nat) : cell s ((r % 4 + 4 * (c % 4)) % 4 + i) ((r % 4 + 4 * (c % 4)) / 4) = cell s (r + i) c :=
    cell_congr s (by omega) (by omega)
  have own := same 0
  rw [Nat.add_zero, Nat.add_zero] at own
  simp only [mixWith, cell_ofFn, same, own]

/-- Blocks with the same cells are the same. -/
theorem block_ext_cell {s t : Block} (h : ∀ r c, cell s r c = cell t r c) : s = t := by
  ext k hk
  rw [← cell_mod_div s hk, ← cell_mod_div t hk, h]

/-- Circulant matrices compose by the product of their first rows, taken cyclically. -/
theorem mixWith_mixWith (m0 m1 m2 m3 n0 n1 n2 n3 : Byte) (s : Block) :
    mixWith m0 m1 m2 m3 (mixWith n0 n1 n2 n3 s) =
      mixWith (gfMul m0 n0 ^^^ gfMul m1 n3 ^^^ gfMul m2 n2 ^^^ gfMul m3 n1)
        (gfMul m0 n1 ^^^ gfMul m1 n0 ^^^ gfMul m2 n3 ^^^ gfMul m3 n2)
        (gfMul m0 n2 ^^^ gfMul m1 n1 ^^^ gfMul m2 n0 ^^^ gfMul m3 n3)
        (gfMul m0 n3 ^^^ gfMul m1 n2 ^^^ gfMul m2 n1 ^^^ gfMul m3 n0) s := by
  refine block_ext_cell fun r c => ?_
  have wrap (i : Nat) : cell s (r + (i + 4)) c = cell s (r + i) c := cell_congr s (by omega) rfl
  simp only [cell_mixWith, Nat.add_assoc, Nat.reduceAdd, wrap 0, wrap 1, wrap 2, Nat.add_zero, gfMul_xor,
    gfMul_xor_left, gfMul_assoc]
  ac_rfl

/-- The identity matrix. -/
theorem mixWith_identity (s : Block) : mixWith 1 0 0 0 s = s := by
  refine block_ext_cell fun r c => ?_
  simp [cell_mixWith]

@[simp] theorem invMixColumns_mixColumns (s : Block) : invMixColumns (mixColumns s) = s := by
  rw [invMixColumns, mixColumns, mixWith_mixWith]
  exact mixWith_identity s

@[simp] theorem mixColumns_invMixColumns (s : Block) : mixColumns (invMixColumns s) = s := by
  rw [invMixColumns, mixColumns, mixWith_mixWith]
  exact mixWith_identity s

/-- Settles O30: the rows of a circulant matrix give the equations, and the product of the two matrices is the
identity. -/
theorem invMixColumnsUndoesMixColumns : Obligations.InvMixColumnsUndoesMixColumns := by
  unfold Obligations.InvMixColumnsUndoesMixColumns
  refine fun s => ⟨fun c => ?_, invMixColumns_mixColumns s, mixColumns_invMixColumns s⟩
  have wrap (i : Nat) : cell s (i + 4) c.val = cell s i c.val := cell_congr s (by omega) rfl
  simp only [getD_four_mul_add _ c 0 (by decide), getD_four_mul_add _ c 1 (by decide),
    getD_four_mul_add _ c 2 (by decide), getD_four_mul_add _ c 3 (by decide), mixColumns, invMixColumns, cell_mixWith]
  simp only [Nat.reduceAdd, wrap 0, wrap 1, wrap 2, BitVec.ofNat_eq_ofNat, gfMul_one_left, true_and]
  refine ⟨?_, ?_, ?_, ?_, ?_, ?_⟩ <;> ac_rfl

end Sys2Proof.Machine
end

section
/-! PROOFS. The family 41_init.md: what a successful INIT opens (R140, R142), INIT's failures (R141, R143), and the order
of the checks of every command (60_exceptions.md R204). -/

namespace Sys2Proof

/-! A word that no row of the opcode map accepts decodes to itself (30_encoding.md R78, R80) -/

/-- A word with its reserved bits 0, under its format's mask, is its opcode alone. -/
theorem and_formatMask_of_reservedBits {c : Word} {lo n : Nat} {opc : BitVec 4}
    (reserved : c.extractLsb' lo n = 0) (opcode : c.extractLsb' 0 4 = opc) :
    c &&& (fieldAt lo (BitVec.allOnes n) ||| fieldAt 0 (BitVec.allOnes 4)) = fieldAt 0 opc := by
  subst opcode
  refine BitVec.eq_of_getLsbD_eq fun i hi => ?_
  have zero (above : lo ≤ i) (inField : i - lo < n) : c.getLsbD i = false := by
    have bit := congrArg (·.getLsbD (i - lo)) reserved
    simpa [inField, Nat.add_sub_cancel' above] using bit
  simp only [BitVec.getLsbD_and, BitVec.getLsbD_or, fieldAt_getLsbD, BitVec.getLsbD_allOnes, BitVec.getLsbD_extractLsb']
  by_cases field : lo ≤ i ∧ i - lo < n
  · simp [zero field.1 field.2]
  · rcases not_and_or.mp field with below | beyond
    · simp [below, hi, Bool.and_comm]
    · simp [beyond, hi, Bool.and_comm]

/-- A word of a row's opcode, with the reserved bits of the row's format 0, is legal if it meets the row's further
condition. -/
theorem legalWord_of_row {c : Word} {r : OpcodeRow} (lo n : Nat) {opc : BitVec 4}
    (row : r ∈ opcodeMap ∧ r.mask = fieldAt lo (BitVec.allOnes n) ||| fieldAt 0 (BitVec.allOnes 4) ∧
      r.matchBits = fieldAt 0 opc)
    (opcode : (c.extractLsb' 0 4).toNat = opc.toNat) (reserved : c.extractLsb' lo n = 0)
    (further : r.further.holds c = true) : legalWord c = true := by
  obtain ⟨listed, mask, word⟩ := row
  have bits := and_formatMask_of_reservedBits reserved (BitVec.eq_of_toNat_eq opcode)
  rw [← mask, ← word] at bits
  exact List.any_eq_true.mpr ⟨r, listed, by simp [OpcodeRow.accepts, bits, further]⟩

end Sys2Proof

namespace Sys2Proof.Machine

/-- A word that does not decode to an illegal word is accepted by the row of its opcode. -/
theorem legalWord_of_decodeWord_ne {c : Word} (decoded : decodeWord c ≠ .reserved c) : legalWord c = true := by
  obtain ⟨reservedIff, -⟩ := illegalWordsCompleteWithErrCmd c
  rw [Ne, reservedIff] at decoded
  simp only [not_or, not_and, not_not, Nat.not_le] at decoded
  obtain ⟨opcode, bitsN, bitsC, bitsI, mode, count⟩ := decoded
  match opc : (c.extractLsb' 0 4).toNat with
  | 0 => exact legalWord_of_row (r := opcodeMap[0]) 4 28 (opc := 0) (by decide) opc (bitsN (by simp [opc])) rfl
  | 1 =>
    exact legalWord_of_row (r := opcodeMap[1]) 21 11 (opc := 1) (by decide) opc (bitsI opc)
      (decide_eq_true (Nat.le_of_lt_succ (mode opc)))
  | 2 =>
    exact legalWord_of_row (r := opcodeMap[2]) 9 23 (opc := 2) (by decide) opc (bitsC (by simp [opc]))
      (decide_eq_true (Nat.le_of_lt_succ (count (by simp [opc]))))
  | 3 => exact legalWord_of_row (r := opcodeMap[3]) 4 28 (opc := 3) (by decide) opc (bitsN (by simp [opc])) rfl
  | 4 =>
    exact legalWord_of_row (r := opcodeMap[4]) 9 23 (opc := 4) (by decide) opc (bitsC (by simp [opc]))
      (decide_eq_true (Nat.le_of_lt_succ (count (by simp [opc]))))
  | 5 => exact legalWord_of_row (r := opcodeMap[5]) 4 28 (opc := 5) (by decide) opc (bitsN (by simp [opc])) rfl
  | n + 6 => omega

theorem decodeWord_of_illegal {c : Word} (illegal : legalWord c = false) : decodeWord c = .reserved c := by
  by_contra decoded
  simp [legalWord_of_decodeWord_ne decoded] at illegal

/-! INIT's checks (41_init.md R140, R141) -/

theorem ivLenLegal_iff (ivlen : BitVec 5) : ivLenLegal ivlen = true ↔ ivlen.toNat = 16 := by
  simp [ivLenLegal, Config.blockBytes]

theorem keyLenLegal_eq_false_iff (klen : BitVec 6) :
    keyLenLegal klen = false ↔ klen.toNat ≠ 16 ∧ klen.toNat ≠ 24 ∧ klen.toNat ≠ 32 := by
  rw [← Bool.not_eq_true, keyLenLegal_iff, not_or, not_or]

/-- The check of KLEN comes first. -/
theorem initError_of_keyLen (s : State) (mode : Mode) (li : Bool) {lk : Bool} {klen : BitVec 6} (ivlen : BitVec 5)
    (bad : lk = true ∧ keyLenLegal klen = false) : initError s mode lk li klen ivlen = some .keyLen := by
  obtain ⟨rfl, illegal⟩ := bad
  simp [initError, illegal]

/-- Past the check of KLEN, each of the other three gives ERR_PARAM. -/
theorem initError_of_param {s : State} {mode : Mode} {lk li : Bool} {klen : BitVec 6} {ivlen : BitVec 5}
    (keyLen : ¬(lk = true ∧ keyLenLegal klen = false))
    (bad : (li = true ∧ mode = .ecb) ∨ (li = true ∧ ivLenLegal ivlen = false) ∨ (lk = false ∧ s.keyed = false)) :
    initError s mode lk li klen ivlen = some .param := by
  rw [initError, if_neg (by simpa using keyLen)]
  rcases bad with ⟨rfl, rfl⟩ | ⟨rfl, ivLen⟩ | ⟨rfl, unkeyed⟩
  · simp
  · simp [ivLen]
  · simp [unkeyed]

/-! A failing INIT (41_init.md R143) -/

/-- A failed check closes the stream and empties the accumulator; the completion record has its code. -/
theorem exec_init_of_initError {s : State} {mode : Mode} (dir : Bool) {lk li : Bool} {klen : BitVec 6}
    {ivlen : BitVec 5} {code : ErrCode} (failed : initError s mode lk li klen ivlen = some code) :
    exec (.init mode dir lk li klen ivlen) s = .next (s.closeStream.complete code []) := by
  rw [exec_init, execInit, failed]

/-! A successful INIT (41_init.md R142) -/

/-- Whether the key is loaded or kept, KEYED is 1 after it. -/
theorem loadKeyIf_eq {s : State} {lk : Bool} (klen : BitVec 6) (keyed : lk = false → s.keyed = true) :
    s.loadKeyIf lk klen = { s with
      w := if lk then (keyExpansion s.keyIn klen.toNat).1 else s.w,
      nr := if lk then (keyExpansion s.keyIn klen.toNat).2 else s.nr,
      keyed := true } := by
  cases lk with
  | true => rfl
  | false =>
    have kept : { s with keyed := true } = s := by rw [← keyed rfl]
    exact kept.symm

theorem loadIvIf_eq (s : State) (li : Bool) :
    s.loadIvIf li = { s with ivcfg := if li then s.ivIn else s.ivcfg } := by
  cases li <;> rfl

/-- Settles O47: no check fails, and the loads and the opening of the stream write the fields named. -/
theorem initOpensAStream : Obligations.InitOpensAStream := by
  unfold Obligations.InitOpensAStream
  intro s mode dir lk li klen ivlen keyLen notEcb ivLen keyed
  have passed : initError s mode lk li klen ivlen = none :=
    (initError_none_iff s mode lk li klen ivlen).mpr
      ⟨fun h => (keyLenLegal_iff klen).mpr (keyLen h), notEcb, fun h => (ivLenLegal_iff ivlen).mpr (ivLen h), keyed⟩
  rw [exec_init, execInit, passed]
  simp only [complete_noOutput, loadKeyIf_eq klen keyed, loadIvIf_eq]
  rfl

/-! The first checks of UPDATE, BLOCK and FINAL (60_exceptions.md R204) -/

theorem exec_update_closed {s : State} {n : BitVec 5} (count : n.toNat ≤ 16) (closed : s.ready = false) :
    exec (.update n) s = .next (s.raiseError .state) := by
  simp [exec, execUpdate, countLegal, count, closed]

theorem exec_block_closed {s : State} {n : BitVec 5} (count : n.toNat ≤ 16) (closed : s.ready = false) :
    exec (.block n) s = .next (s.raiseError .state) := by
  simp [exec, execBlock, countLegal, count, closed]

theorem exec_block_short {s : State} {n : BitVec 5} (short : n.toNat < 16) (isOpen : s.ready = true) :
    exec (.block n) s = .next (s.raiseError .input) := by
  simp [exec, execBlock, countLegal, Config.blockBytes, short, Nat.le_of_lt short, isOpen]

theorem exec_final_closed {s : State} (closed : s.ready = false) : exec .final s = .next (s.raiseError .state) := by
  simp [exec, execFinal, closed]

theorem exec_final_open {s : State} (isOpen : s.ready = true) :
    exec .final s =
      .next ({ s.closeStream with fb := s.ivcfg }.complete (finalResult s).1 (finalResult s).2) := by
  simp [exec, execFinal, isOpen]

theorem finalResult_of_partialBlock {s : State} (buffered : s.fill.val ≠ 0) (mode : needsWholeBlocks s.mode = true) :
    finalResult s = (.dataLen, []) := by
  rw [finalResult, if_neg buffered, if_pos mode]

/-- Settles O48: INIT's first failing check gives the code, an illegal word is looked at before any check, and READY
before COUNT and FILL. -/
theorem initFailuresInOrder : Obligations.InitFailuresInOrder := by
  unfold Obligations.InitFailuresInOrder
  intro s mode dir lk li klen ivlen failed badKeyLen badParam reports
  have failed_eq (code : ErrCode) : s.closeStream.complete code [] = failed code := complete_noOutput s.closeStream code
  have badKeyLen_iff : badKeyLen ↔ lk = true ∧ keyLenLegal klen = false := by
    rw [keyLenLegal_eq_false_iff]
  have badParam_iff : badParam ↔
      (li = true ∧ mode = .ecb) ∨ (li = true ∧ ivLenLegal ivlen = false) ∨ (lk = false ∧ s.keyed = false) := by
    rw [← Bool.not_eq_true (ivLenLegal ivlen), ivLenLegal_iff]
  refine ⟨fun bad => ?keyLen, fun good bad => ?param, fun c illegal => ?illegalWord,
    fun n count closed => ⟨?update, ?blockClosed⟩, fun closed => ?finalClosed, fun n short isOpen => ?blockShort,
    fun isOpen buffered mode => ?finalPartial⟩
  case keyLen =>
    rw [exec_init_of_initError dir (initError_of_keyLen s mode li ivlen (badKeyLen_iff.mp bad)), failed_eq]
  case param =>
    have code := initError_of_param (mt badKeyLen_iff.mpr good) (badParam_iff.mp bad)
    rw [exec_init_of_initError dir code, failed_eq]
  case illegalWord => rw [decodeWord_of_illegal illegal, exec_reserved, complete_noOutput]
  case update => exact ⟨_, exec_update_closed count closed, rfl⟩
  case blockClosed => exact ⟨_, exec_block_closed count closed, rfl⟩
  case finalClosed => exact ⟨_, exec_final_closed closed, rfl⟩
  case blockShort => exact ⟨_, exec_block_short short isOpen, rfl⟩
  case finalPartial =>
    have wholeBlocks : needsWholeBlocks s.mode = true := by
      rcases mode with ecb | cbc
      · rw [ecb]; rfl
      · rw [cbc]; rfl
    refine ⟨_, exec_final_open isOpen, ?_⟩
    rw [complete_err, finalResult_of_partialBlock buffered wholeBlocks]

end Sys2Proof.Machine
end

section
/-! PROOFS. The family 42_modes.md: the mode block function (R150 to R158), the counter increment (R159), and BLOCK
(R160). -/

namespace Sys2Proof.Machine

/-! The mode block function (42_modes.md R150 to R158) -/

/-- ModeBlock returns the first part of its mode's row and puts the second into FB. -/
theorem modeBlock_of_chainBlock {s : State} {x y fb : Block}
    (row : chainBlock s.mode s.dir s.encipher s.decipher s.fb x = (y, fb)) :
    modeBlock s x = (y, { s with fb := fb }) := by
  rw [modeBlock, row]

/-- Settles O32: each row is the table's entry at that mode and direction, and ECB puts FB back as it was. -/
theorem modeBlockTable : Obligations.ModeBlockTable := by
  unfold Obligations.ModeBlockTable
  intro s x k
  refine ⟨fun mode dir => ?ecbEncrypt, fun mode dir => ?ecbDecrypt, fun mode dir => ?cbcEncrypt,
    fun mode dir => ?cbcDecrypt, fun mode dir => ?cfbEncrypt, fun mode dir => ?cfbDecrypt, fun mode => ?ofb,
    fun mode => ?ctr⟩
  case ecbEncrypt => exact modeBlock_of_chainBlock (fb := s.fb) (by rw [mode, dir]; rfl)
  case ecbDecrypt => exact modeBlock_of_chainBlock (fb := s.fb) (by rw [mode, dir]; rfl)
  case cbcEncrypt => exact modeBlock_of_chainBlock (by rw [mode, dir]; rfl)
  case cbcDecrypt => exact modeBlock_of_chainBlock (by rw [mode, dir]; rfl)
  case cfbEncrypt => exact modeBlock_of_chainBlock (by rw [mode, dir]; rfl)
  case cfbDecrypt => exact modeBlock_of_chainBlock (by rw [mode, dir]; rfl)
  case ofb => exact modeBlock_of_chainBlock (by rw [mode]; rfl)
  case ctr => exact modeBlock_of_chainBlock (by rw [mode]; rfl)

/-! BLOCK (42_modes.md R160) -/

theorem raiseError_eq (s : State) (code : ErrCode) :
    s.raiseError code = { s with err := code, outlen := 0, dout := Vector.replicate 16 0, inflight := none } :=
  complete_noOutput s code

/-- A completion with a whole block of output. -/
theorem complete_block (s : State) (code : ErrCode) (y : Block) :
    s.complete code y.toList = { s with err := code, outlen := 16, dout := y, inflight := none } := by
  rw [State.complete, padBlock_toList, Vector.length_toList]
  rfl

theorem exec_block_open {s : State} {n : BitVec 5} (count : n.toNat = 16) (isOpen : s.ready = true) :
    exec (.block n) s = .next ((modeBlock s s.din).2.complete .ok (modeBlock s s.din).1.toList) := by
  simp [exec, execBlock, countLegal, Config.blockBytes, count, isOpen]

/-- A word of BLOCK's opcode with a reserved bit set or COUNT above 16 is illegal (30_encoding.md R80). -/
theorem decodeWord_block_reserved {c : Word} (opcode : c.extractLsb' 0 4 = 4)
    (illegal : c.extractLsb' 9 23 ≠ 0 ∨ 17 ≤ (c.extractLsb' 4 5).toNat) : decodeWord c = .reserved c := by
  have format : decodeCommand c = decodeC c .block := by rw [decodeCommand, opcode]; rfl
  exact (decodeWord_formatC_reserved_iff format (by simp)).mpr illegal

/-- Settles O34: an illegal word, READY, and COUNT are looked at in that order, and a whole block is one ModeBlock of
DIN. -/
theorem blockProcessesDin : Obligations.BlockProcessesDin := by
  unfold Obligations.BlockProcessesDin
  intro s n count
  refine ⟨fun c opcode illegal => ?illegalWord, fun closed => ?closed, fun isOpen short => ?short,
    fun isOpen whole => ?whole⟩
  case illegalWord => rw [decodeWord_block_reserved opcode illegal, exec_reserved, complete_noOutput]
  case closed => rw [exec_block_closed count closed, raiseError_eq]
  case short => rw [exec_block_short short isOpen, raiseError_eq]
  case whole =>
    rw [exec_block_open whole isOpen, complete_block]
    rfl

/-! The number of a block, byte by byte (00_scope.md R12) -/

/-- The number that the first `n` bytes of a block stand for, the first the most significant. -/
def prefixNat (b : Block) (n : Nat) : Nat :=
  match n with
  | 0 => 0
  | k + 1 => prefixNat b k * 256 + (b[k]?.getD 0).toNat

theorem prefixNat_succ (b : Block) (k : Nat) : prefixNat b (k + 1) = prefixNat b k * 256 + (b[k]?.getD 0).toNat := rfl

theorem foldl_take_eq_prefixNat (b : Block) {n : Nat} (hn : n ≤ 16) :
    (b.toList.take n).foldl (fun m a => m * 256 + a.toNat) 0 = prefixNat b n := by
  induction n with
  | zero => rfl
  | succ k ih =>
    have inBlock : k < b.toList.length := by simpa using hn
    rw [List.take_succ_eq_append_getElem inBlock, List.foldl_append, ih (by omega), prefixNat_succ]
    simp [show k < 16 by omega]

theorem int128_eq_prefixNat (b : Block) : int128 b = prefixNat b 16 := by
  rw [← foldl_take_eq_prefixNat b (Nat.le_refl 16), List.take_of_length_le (by simp)]
  rfl

theorem prefixNat_lt (b : Block) (n : Nat) : prefixNat b n < 256 ^ n := by
  induction n with
  | zero => exact Nat.one_pos
  | succ k ih =>
    have byte := (b[k]?.getD 0).isLt
    rw [prefixNat_succ, Nat.pow_succ]
    omega

/-- Prefixes with the same bytes have the same number. -/
theorem prefixNat_congr {a b : Block} {n : Nat} (h : ∀ i < n, a[i]?.getD 0 = b[i]?.getD 0) :
    prefixNat a n = prefixNat b n := by
  induction n with
  | zero => rfl
  | succ k ih => rw [prefixNat_succ, prefixNat_succ, ih fun i hi => h i (by omega), h k (by omega)]

/-- Prefixes with the same number have the same bytes. -/
theorem getD_eq_of_prefixNat_eq {a b : Block} {n : Nat} (h : prefixNat a n = prefixNat b n) {i : Nat} (hi : i < n) :
    a[i]?.getD 0 = b[i]?.getD 0 := by
  induction n with
  | zero => omega
  | succ k ih =>
    have byteA := (a[k]?.getD 0).isLt
    have byteB := (b[k]?.getD 0).isLt
    rw [prefixNat_succ, prefixNat_succ] at h
    rcases Nat.lt_succ_iff_lt_or_eq.mp hi with earlier | rfl
    · exact ih (by omega) earlier
    · exact BitVec.eq_of_toNat_eq (by omega)

theorem int128_injective {a b : Block} (h : int128 a = int128 b) : a = b := by
  rw [int128_eq_prefixNat, int128_eq_prefixNat] at h
  ext1 i hi
  simpa [hi] using getD_eq_of_prefixNat_eq h hi

theorem blk_getD (n : Nat) {k : Nat} (hk : k < 16) : ((blk n)[k]?.getD 0).toNat = n / 256 ^ (15 - k) % 256 := by
  simp [blk, hk]

/-- The first `k` bytes of blk(n) are the top digits of `n` in base 256. -/
theorem prefixNat_blk (n : Nat) {k : Nat} (hk : k ≤ 16) : prefixNat (blk n) k = n / 256 ^ (16 - k) % 256 ^ k := by
  induction k with
  | zero => exact (Nat.mod_one _).symm
  | succ k ih =>
    have shift : n / 256 ^ (16 - k) = n / 256 ^ (15 - k) / 256 := by
      rw [Nat.div_div_eq_div_mul, ← Nat.pow_succ, Nat.succ_sub (by omega : k ≤ 15)]
    have position : 16 - (k + 1) = 15 - k := by omega
    rw [prefixNat_succ, ih (by omega), blk_getD n (by omega), shift, position, Nat.pow_succ', Nat.mod_mul,
      Nat.mul_comm 256, Nat.add_comm]

theorem two_pow_128_eq : (2 : Nat) ^ 128 = 256 ^ 16 := by decide

theorem int128_blk (n : Nat) : int128 (blk n) = n % 2 ^ 128 := by
  rw [int128_eq_prefixNat, prefixNat_blk n (Nat.le_refl 16), Nat.sub_self, Nat.pow_zero, Nat.div_one,
    two_pow_128_eq]

/-! The counter increment (42_modes.md R159) -/

theorem int128_inc128 (b : Block) : int128 (inc128 b) = (int128 b + 1) % 2 ^ 128 := by
  rw [inc128, int128_blk, Nat.mod_mod]

theorem getD_setIfInBounds_self (b : Block) {k : Nat} (v : Byte) (hk : k < 16) :
    (b.setIfInBounds k v)[k]?.getD 0 = v := by
  simp [hk]

theorem getD_setIfInBounds_ne (b : Block) {k i : Nat} (v : Byte) (h : k ≠ i) :
    (b.setIfInBounds k v)[i]?.getD 0 = b[i]?.getD 0 := by
  rw [Vector.getElem?_setIfInBounds_ne h]

/-- No carry: the increment of byte `k` does not wrap and ends the loop. -/
theorem incBytes_succ_of_ne {b : Block} {k : Nat} (hk : k < 16) (noCarry : b[k]?.getD 0 + 1 ≠ 0) :
    incBytes (k + 1) b = b.setIfInBounds k (b[k]?.getD 0 + 1) := by
  simp only [incBytes, getD_setIfInBounds_self b _ hk, if_pos noCarry]

/-- A carry: byte `k` becomes 0 and byte `k - 1` is next. -/
theorem incBytes_succ_of_eq {b : Block} {k : Nat} (hk : k < 16) (carry : b[k]?.getD 0 + 1 = 0) :
    incBytes (k + 1) b = incBytes k (b.setIfInBounds k 0) := by
  simp only [incBytes, carry, getD_setIfInBounds_self b _ hk, ne_eq, not_true_eq_false, if_false]

/-- The loop from byte `n - 1` down leaves the later bytes as they are. -/
theorem getD_incBytes_of_ge (b : Block) {n i : Nat} (hn : n ≤ 16) (h : n ≤ i) :
    (incBytes n b)[i]?.getD 0 = b[i]?.getD 0 := by
  induction n generalizing b with
  | zero => rfl
  | succ k ih =>
    by_cases carry : b[k]?.getD 0 + 1 = 0
    · rw [incBytes_succ_of_eq (by omega) carry, ih _ (by omega) (by omega), getD_setIfInBounds_ne b _ (by omega)]
    · rw [incBytes_succ_of_ne (by omega) carry, getD_setIfInBounds_ne b _ (by omega)]

/-- The loop adds 1 to the number of the first `n` bytes, and drops the carry out of byte 0. -/
theorem prefixNat_incBytes (b : Block) {n : Nat} (hn : n ≤ 16) :
    prefixNat (incBytes n b) n = (prefixNat b n + 1) % 256 ^ n := by
  induction n generalizing b with
  | zero => exact (Nat.mod_one _).symm
  | succ k ih =>
    have before (v : Byte) : prefixNat (b.setIfInBounds k v) k = prefixNat b k :=
      prefixNat_congr fun i hi => getD_setIfInBounds_ne b v (by omega)
    by_cases carry : b[k]?.getD 0 + 1 = 0
    · have last : (b[k]?.getD 0).toNat = 255 := by bv_omega
      calc prefixNat (incBytes (k + 1) b) (k + 1)
        _ = (prefixNat b k + 1) % 256 ^ k * 256 := by
          rw [incBytes_succ_of_eq (by omega) carry, prefixNat_succ, ih _ (by omega), before,
            getD_incBytes_of_ge _ (by omega) (Nat.le_refl k), getD_setIfInBounds_self b _ (by omega)]
          simp
        _ = (prefixNat b (k + 1) + 1) % 256 ^ (k + 1) := by
          rw [prefixNat_succ, last, Nat.pow_succ, ← Nat.mul_mod_mul_right, Nat.add_mul]
    · have last : (b[k]?.getD 0 + 1).toNat = (b[k]?.getD 0).toNat + 1 := by bv_omega
      have sum : prefixNat (incBytes (k + 1) b) (k + 1) = prefixNat b (k + 1) + 1 := by
        rw [incBytes_succ_of_ne (by omega) carry, prefixNat_succ, before, getD_setIfInBounds_self b _ (by omega), last,
          prefixNat_succ, Nat.add_assoc]
      rw [← sum, Nat.mod_eq_of_lt (prefixNat_lt _ _)]

theorem int128_incBytes (b : Block) : int128 (incBytes 16 b) = (int128 b + 1) % 2 ^ 128 := by
  rw [int128_eq_prefixNat, int128_eq_prefixNat, prefixNat_incBytes b (Nat.le_refl 16), two_pow_128_eq]

/-- Settles O33: both forms add 1 to the block's number modulo 2^128, and the number determines the block. -/
theorem counterIncrementIsFullWidth : Obligations.CounterIncrementIsFullWidth := by
  unfold Obligations.CounterIncrementIsFullWidth
  intro b
  exact ⟨int128_inc128 b, int128_injective ((int128_inc128 b).trans (int128_incBytes b).symm)⟩

end Sys2Proof.Machine
end

section
/-! PROOFS. The family 43_stream.md: UPDATE (R170, R171), FINAL (R172), chunking (R177), and the length of a stream's
output (R178). -/

namespace Sys2Proof

/-! The words of UPDATE and FINAL (30_encoding.md R79, R80) -/

/-- A word of UPDATE's opcode with a reserved bit set or COUNT above 16 is illegal. -/
theorem decodeWord_update_reserved {c : Word} (opcode : c.extractLsb' 0 4 = 2)
    (illegal : c.extractLsb' 9 23 ≠ 0 ∨ 17 ≤ (c.extractLsb' 4 5).toNat) : decodeWord c = .reserved c := by
  have format : decodeCommand c = decodeC c .update := by rw [decodeCommand, opcode]; rfl
  exact (decodeWord_formatC_reserved_iff format (by simp)).mpr illegal

theorem decodeN_eq_ok {c : Word} {i j : Instr} (decoded : decodeN c i = .ok j) : c.extractLsb' 4 28 = 0 ∧ i = j := by
  rw [decodeN] at decoded
  split at decoded
  next reserved => exact ⟨reserved, Except.ok.inj decoded⟩
  next => cases decoded

theorem decodeC_eq_ok {c : Word} {mk : BitVec 5 → Instr} {j : Instr} (decoded : decodeC c mk = .ok j) :
    ∃ n, mk n = j := by
  rw [decodeC] at decoded
  split at decoded
  next =>
    split at decoded
    next => exact ⟨_, Except.ok.inj decoded⟩
    next => cases decoded
  next => cases decoded

theorem decodeI_eq_ok {c : Word} {j : Instr} (decoded : decodeI c = .ok j) :
    ∃ mode dir lk li klen ivlen, Instr.init mode dir lk li klen ivlen = j := by
  rw [decodeI] at decoded
  split at decoded
  next =>
    split at decoded
    next => exact ⟨_, _, _, _, _, _, Except.ok.inj decoded⟩
    next => cases decoded
  next => cases decoded

/-- A word is determined by its opcode and the bits above it. -/
theorem word_ext_opcode {c d : Word} (opcode : c.extractLsb' 0 4 = d.extractLsb' 0 4)
    (above : c.extractLsb' 4 28 = d.extractLsb' 4 28) : c = d := by
  rw [← BitVec.toNat_inj, BitVec.extractLsb'_toNat, BitVec.extractLsb'_toNat, Nat.shiftRight_eq_div_pow,
    Nat.shiftRight_eq_div_pow] at opcode above
  have := c.isLt
  have := d.isLt
  exact BitVec.eq_of_toNat_eq (by omega)

/-- Only opcode 3 names FINAL, and its format leaves no other bit free. -/
theorem decodeCommand_eq_final {c : Word} (decoded : decodeCommand c = .ok .final) :
    c.extractLsb' 0 4 = 3 ∧ c.extractLsb' 4 28 = 0 := by
  match opc : (c.extractLsb' 0 4).toNat with
  | 3 =>
    simp only [decodeCommand, opc] at decoded
    exact ⟨BitVec.eq_of_toNat_eq opc, (decodeN_eq_ok decoded).1⟩
  | 0 | 5 =>
    simp only [decodeCommand, opc] at decoded
    cases (decodeN_eq_ok decoded).2
  | 1 =>
    simp only [decodeCommand, opc] at decoded
    obtain ⟨_, _, _, _, _, _, other⟩ := decodeI_eq_ok decoded
    cases other
  | 2 | 4 =>
    simp only [decodeCommand, opc] at decoded
    obtain ⟨_, other⟩ := decodeC_eq_ok decoded
    cases other
  | n + 6 => simp [decodeCommand, opc] at decoded

theorem decodeWord_eq_final_iff (c : Word) : decodeWord c = .final ↔ c = 3 := by
  refine ⟨fun decoded => ?_, fun h => by rw [h]; exact decode_final_word⟩
  have command : decodeCommand c = .ok .final := by
    rw [decodeWord] at decoded
    split at decoded
    next i h => rw [h, decoded]
    next => cases decoded
  obtain ⟨opcode, reserved⟩ := decodeCommand_eq_final command
  exact word_ext_opcode opcode reserved

end Sys2Proof

namespace Sys2Proof.Machine

/-! Bytes put into the accumulator -/

/-- `a` with the bytes `bs` at its positions from `k` on. -/
def putBytes (a : Block) (k : Nat) (bs : List Byte) : Block :=
  Vector.ofFn fun j => if j.val < k then a[j] else bs[j.val - k]?.getD a[j]

theorem putBytes_getElem (a : Block) (k : Nat) (bs : List Byte) (j : Nat) (hj : j < 16) :
    (putBytes a k bs)[j] = if j < k then a[j] else bs[j - k]?.getD a[j] := by
  simp [putBytes]

@[simp] theorem putBytes_nil (a : Block) (k : Nat) : putBytes a k [] = a := by
  ext j hj : 1
  simp [putBytes_getElem]

theorem putBytes_cons (a : Block) {k : Nat} (hk : k < 16) (b : Byte) (bs : List Byte) :
    putBytes a k (b :: bs) = putBytes (a.set k b) (k + 1) bs := by
  ext j hj : 1
  simp only [putBytes_getElem, Vector.getElem_set]
  rcases Nat.lt_trichotomy j k with before | rfl | after
  · simp [before, Nat.lt_succ_of_lt before, Nat.ne_of_gt before]
  · simp
  · obtain ⟨i, rfl⟩ := Nat.exists_eq_add_of_lt after
    simp [show k + i + 1 - k = i + 1 by omega, show k + i + 1 - (k + 1) = i by omega, Nat.ne_of_lt after,
      Nat.not_lt_of_lt after]

/-! UPDATE's loop on a whole sequence (43_stream.md R170, R171) -/

/-- Bytes that leave the accumulator short of a block are appended, and nothing is put out. -/
theorem absorb_short (s : State) (bs : List Byte) (short : s.fill.val + bs.length < 16) :
    absorb s bs =
      ({ s with acc := putBytes s.acc s.fill.val bs, fill := Fin.ofNat 16 (s.fill.val + bs.length) }, []) := by
  induction bs generalizing s with
  | nil => simp
  | cons b bs ih =>
    rw [List.length_cons] at short
    obtain ⟨-, appended⟩ | ⟨full, -⟩ := absorbByte_cases s [] b
    · have fill : (Fin.ofNat 16 (s.fill.val + 1)).val = s.fill.val + 1 := Nat.mod_eq_of_lt (by omega)
      rw [absorb_cons, appended, ih _ (by simp only [fill]; omega)]
      simp only [fill, putBytes_cons s.acc s.fill.isLt, List.length_cons, List.nil_append,
        Nat.add_assoc, Nat.add_comm 1]
    · omega

/-- Bytes that fill the accumulator exactly are put out as one block, and leave it empty. -/
theorem absorb_block (s : State) (bs : List Byte) (whole : s.fill.val + bs.length = 16) :
    absorb s bs =
      ({ s with fb := (modeBlock s (putBytes s.acc s.fill.val bs)).2.fb, acc := zeroBlock, fill := 0 },
        (modeBlock s (putBytes s.acc s.fill.val bs)).1.toList) := by
  induction bs generalizing s with
  | nil => exact absurd whole (Nat.ne_of_lt s.fill.isLt)
  | cons b bs ih =>
    rw [List.length_cons] at whole
    rw [absorb_cons, putBytes_cons s.acc s.fill.isLt]
    obtain ⟨notLast, appended⟩ | ⟨last, drained⟩ := absorbByte_cases s [] b
    · have fill : (Fin.ofNat 16 (s.fill.val + 1)).val = s.fill.val + 1 :=
        Nat.mod_eq_of_lt (by have := s.fill.isLt; omega)
      rw [appended, ih _ (by simp only [fill]; omega)]
      simp only [fill]
      rfl
    · obtain rfl : bs = [] := List.eq_nil_of_length_eq_zero (by omega)
      rw [drained]
      simp

/-- The block of R171: the accumulator's bytes, then the first bytes of the input. -/
def State.drainedBlock (s : State) (bs : List Byte) : Block := putBytes s.acc s.fill.val (bs.take (16 - s.fill.val))

/-- At most 16 bytes that reach a block put out that block, and the others stand in a cleared accumulator. -/
theorem absorb_drain (s : State) (bs : List Byte) (reached : 16 ≤ s.fill.val + bs.length) (atMost : bs.length ≤ 16) :
    absorb s bs =
      ({ s with
          fb := (modeBlock s (s.drainedBlock bs)).2.fb
          acc := putBytes zeroBlock 0 (bs.drop (16 - s.fill.val))
          fill := Fin.ofNat 16 (s.fill.val + bs.length - 16) },
        (modeBlock s (s.drainedBlock bs)).1.toList) := by
  have fill := s.fill.isLt
  have split := absorb_append s (bs.take (16 - s.fill.val)) (bs.drop (16 - s.fill.val))
  have whole := absorb_block s (bs.take (16 - s.fill.val)) (by rw [List.length_take]; omega)
  have rest (t : State) (empty : t.fill = 0) := absorb_short t (bs.drop (16 - s.fill.val))
    (by rw [empty, List.length_drop]; simp; omega)
  rw [List.take_append_drop, whole, rest _ rfl] at split
  rw [split]
  simp [State.drainedBlock, show bs.length - (16 - s.fill.val) = s.fill.val + bs.length - 16 by omega]

/-! UPDATE (43_stream.md R170, R171) -/

theorem dinBytes_getD (s : State) (n : BitVec 5) {i : Nat} (hi : i < 16) (b : Byte) :
    (s.dinBytes n)[i]?.getD b = if i < n.toNat then s.din[i] else b := by
  by_cases h : i < n.toNat <;> simp [State.dinBytes, h, hi]

theorem exec_update_open {s : State} {n : BitVec 5} (count : n.toNat ≤ 16) (isOpen : s.ready = true) :
    exec (.update n) s = .next ((absorb s (s.dinBytes n)).1.complete .ok (absorb s (s.dinBytes n)).2) :=
  execUpdate_open n s count isOpen

/-- The accumulator after an UPDATE that reaches no block. -/
theorem putBytes_dinBytes (s : State) (n : BitVec 5) :
    putBytes s.acc s.fill.val (s.dinBytes n) = Vector.ofFn fun j =>
      if s.fill.val ≤ j.val ∧ j.val < s.fill.val + n.toNat then s.din[j.val - s.fill.val] else s.acc[j] := by
  ext j hj : 1
  simp only [putBytes_getElem, dinBytes_getD s n (Nat.lt_of_le_of_lt (Nat.sub_le j _) hj), Vector.getElem_ofFn,
    Fin.getElem_fin]
  rcases Nat.lt_or_ge j s.fill.val with held | appended
  · rw [if_pos held, if_neg (by omega)]
  · rw [if_neg (by omega)]
    exact if_congr (by omega) rfl rfl

/-- The block an UPDATE drains is made of ACC and the first bytes of DIN. -/
theorem drainedBlock_dinBytes (s : State) {n : BitVec 5} (reached : 16 ≤ s.fill.val + n.toNat) :
    s.drainedBlock (s.dinBytes n) =
      Vector.ofFn fun j => if j.val < s.fill.val then s.acc[j] else s.din[j.val - s.fill.val] := by
  ext j hj : 1
  simp only [State.drainedBlock, putBytes_getElem, List.getElem?_take, Vector.getElem_ofFn, Fin.getElem_fin]
  refine if_ctx_congr Iff.rfl (fun _ => rfl) fun taken => ?_
  rw [if_pos (by omega), dinBytes_getD s n (Nat.lt_of_le_of_lt (Nat.sub_le j _) hj), if_pos (by omega)]

/-- The accumulator after an UPDATE that drains a block. -/
theorem putBytes_dinBytes_drop (s : State) (n : BitVec 5) :
    putBytes zeroBlock 0 ((s.dinBytes n).drop (16 - s.fill.val)) = Vector.ofFn fun j =>
      if j.val < s.fill.val + n.toNat - 16 then s.din[16 - s.fill.val + j.val]?.getD 0 else 0 := by
  ext j hj : 1
  have same : 16 - s.fill.val + j < n.toNat ↔ j < s.fill.val + n.toNat - 16 := by have := s.fill.isLt; omega
  by_cases left : j < s.fill.val + n.toNat - 16 <;>
    simp [putBytes_getElem, State.dinBytes, zeroBlock, same, left]

/-- Settles O42: an illegal word and READY are looked at first; then the loop over DIN's first bytes appends them, or
puts out the one block they reach. -/
theorem updateAppendsAndDrains : Obligations.UpdateAppendsAndDrains := by
  unfold Obligations.UpdateAppendsAndDrains
  intro s n count k full
  have length := dinBytes_length s n count
  refine ⟨fun c opcode illegal => ?illegalWord, fun closed => ?closed, fun isOpen short => ?append,
    fun isOpen reached => ?drain⟩
  case illegalWord => rw [decodeWord_update_reserved opcode illegal, exec_reserved, complete_noOutput]
  case closed => rw [exec_update_closed count closed, raiseError_eq]
  case append =>
    rw [exec_update_open count isOpen, absorb_short s _ (by rw [length]; exact short), complete_noOutput, length,
      putBytes_dinBytes]
  case drain =>
    rw [exec_update_open count isOpen, absorb_drain s _ (by rw [length]; exact reached) (by rw [length]; exact count),
      complete_block, length, drainedBlock_dinBytes s reached, putBytes_dinBytes_drop]

/-! FINAL (43_stream.md R172, R173) -/

/-- A partial block in a mode that allows one is XORed with the keystream's first bytes. -/
theorem finalResult_of_streamMode {s : State} (buffered : s.fill.val ≠ 0) (mode : needsWholeBlocks s.mode = false) :
    finalResult s = (.ok, (xorBlock s.acc s.keystream).toList.take s.fill.val) := by
  rw [finalResult, if_neg buffered, mode, if_neg Bool.false_ne_true]

theorem finalResult_of_empty {s : State} (empty : s.fill.val = 0) : finalResult s = (.ok, []) := by
  rw [finalResult, if_pos empty]

theorem needsWholeBlocks_eq_true_iff (m : Mode) : needsWholeBlocks m = true ↔ m = .ecb ∨ m = .cbc := by
  cases m <;> decide

theorem needsWholeBlocks_eq_false_iff (m : Mode) :
    needsWholeBlocks m = false ↔ m = .cfb ∨ m = .ofb ∨ m = .ctr := by
  cases m <;> decide

/-- A completion whose output is the first bytes of a block. -/
theorem complete_take (s : State) (code : ErrCode) (y : Block) {n : Nat} (hn : n ≤ 16) :
    s.complete code (y.toList.take n) = { s with
      err := code, outlen := Fin.ofNat 17 n, dout := Vector.ofFn fun j => if j.val < n then y[j] else 0,
      inflight := none } := by
  have dout : padBlock (y.toList.take n) = Vector.ofFn fun j => if j.val < n then y[j] else 0 := by
    ext j hj : 1
    by_cases h : j < n <;> simp [h, hj]
  rw [State.complete, dout, List.length_take, Vector.length_toList, Nat.min_eq_left hn]

/-- Settles O43: FINAL's code and output by FILL and the mode, under the closing of the stream. -/
theorem finalFlushesAndCloses : Obligations.FinalFlushesAndCloses := by
  unfold Obligations.FinalFlushesAndCloses
  refine ⟨decodeWord_eq_final_iff, fun s => ?_⟩
  intro closed
  refine ⟨fun notOpen => ?notOpen, fun isOpen empty => ?empty,
    fun isOpen buffered mode => ?wholeBlocks, fun isOpen buffered mode => ?streamMode⟩
  case notOpen => rw [exec_final_closed notOpen, raiseError_eq]
  case empty =>
    rw [exec_final_open isOpen, finalResult_of_empty empty, complete_noOutput]
    rfl
  case wholeBlocks =>
    rw [exec_final_open isOpen, finalResult_of_partialBlock buffered ((needsWholeBlocks_eq_true_iff _).mpr mode),
      complete_noOutput]
    rfl
  case streamMode =>
    rw [exec_final_open isOpen, finalResult_of_streamMode buffered ((needsWholeBlocks_eq_false_iff _).mpr mode),
      complete_take _ _ _ (Nat.le_of_lt s.fill.isLt)]
    simp only [xorBlock_get, Fin.getElem_fin]
    rfl

/-! A stream of UPDATEs and its FINAL (43_stream.md R177, R178) -/

theorem absorb_ready (s : State) (bs : List Byte) : (absorb s bs).1.ready = s.ready := by
  obtain ⟨_, _, _, e⟩ := absorb_frame bs s
  rw [e]

theorem absorb_mode (s : State) (bs : List Byte) : (absorb s bs).1.mode = s.mode := by
  obtain ⟨_, _, _, e⟩ := absorb_frame bs s
  rw [e]

/-- FINAL on an open stream adds its output to what was collected. -/
theorem collect_final {r : State × List Byte} (isOpen : r.1.ready = true) :
    collect .final r =
      ({ r.1.closeStream with fb := r.1.ivcfg }.complete (finalResult r.1).1 (finalResult r.1).2,
        r.2 ++ (finalResult r.1).2) := by
  simp only [collect, exec_final_open isOpen, complete_output _ _ _ (finalResult_length_le r.1)]

/-- FINAL reads none of DIN, DOUT, ERR, OUTLEN and BUSY, and writes all of them but DIN. -/
theorem collect_final_overlay {s : State} (out : List Byte) (d x : Block) (e : ErrCode) (o : Fin 17)
    (f : Option InFlight) (isOpen : s.ready = true) :
    collect .final (s.overlay d x e o f, out) =
      ({ (collect .final (s, out)).1 with din := d }, (collect .final (s, out)).2) := by
  rw [collect_final (r := (s.overlay d x e o f, out)) isOpen, collect_final (r := (s, out)) isOpen]
  rfl

/-- A stream comes to one loop over all its bytes and a FINAL; only DIN tells the chunks apart. -/
theorem runStream_eq_collect_absorb {s : State} {cs : List Chunk} (isOpen : s.ready = true) (legal : ChunksLegal cs) :
    ∃ d, runStream s cs =
      ({ (collect .final (absorb s (chunkBytes cs))).1 with din := d },
        (collect .final (absorb s (chunkBytes cs))).2) := by
  obtain ⟨d, x, e, o, f, fed⟩ := feedStream_eq_absorb cs s isOpen legal
  exact ⟨d, by rw [runStream, fed, collect_final_overlay _ d x e o f ((absorb_ready s _).trans isOpen)]⟩

/-- Settles O44: the loop over a stream's bytes does not see where they were cut. -/
theorem chunkingDoesNotMatter : Obligations.ChunkingDoesNotMatter := by
  unfold Obligations.ChunkingDoesNotMatter
  intro s cs ds d isOpen legal legal' sameBytes
  obtain ⟨_, run⟩ := runStream_eq_collect_absorb isOpen legal
  obtain ⟨_, run'⟩ := runStream_eq_collect_absorb isOpen legal'
  rw [run, run', sameBytes]
  exact ⟨rfl, rfl⟩

/-- FINAL succeeds unless a partial block is left in a mode that needs whole ones. -/
theorem finalResult_err (s : State) :
    (finalResult s).1 = if s.fill.val ≠ 0 ∧ needsWholeBlocks s.mode = true then .dataLen else .ok := by
  obtain ⟨empty, e⟩ | ⟨buffered, mode, e⟩ | ⟨-, mode, e⟩ := finalResult_cases s
  · rw [e, if_neg (fun h => h.1 empty)]
  · rw [e, if_pos ⟨buffered, mode⟩]
  · rw [e, mode, if_neg (fun h => Bool.false_ne_true h.2)]

/-- A stream's completion code is FINAL's, on the bytes its UPDATEs left buffered. -/
theorem runStream_err {s : State} {cs : List Chunk} (isOpen : s.ready = true) (legal : ChunksLegal cs) :
    (runStream s cs).1.err =
      if (s.fill.val + (chunkBytes cs).length) % 16 ≠ 0 ∧ needsWholeBlocks s.mode = true then .dataLen else .ok := by
  obtain ⟨_, run⟩ := runStream_eq_collect_absorb isOpen legal
  rw [run, collect_final ((absorb_ready s _).trans isOpen), ← absorb_mode s (chunkBytes cs),
    ← (absorb_counts (chunkBytes cs) s).1]
  exact finalResult_err (absorb s (chunkBytes cs)).1

/-- A stream puts out its whole blocks and, when FINAL succeeds, the bytes left. -/
theorem runStream_length {s : State} {cs : List Chunk} (isOpen : s.ready = true) (legal : ChunksLegal cs) :
    (runStream s cs).2.length = (s.fill.val + (chunkBytes cs).length) / 16 * 16 +
      if (runStream s cs).1.err = .ok then (s.fill.val + (chunkBytes cs).length) % 16 else 0 := by
  obtain ⟨_, run⟩ := runStream_eq_collect_absorb isOpen legal
  obtain ⟨fill, length⟩ := absorb_counts (chunkBytes cs) s
  rw [run, collect_final ((absorb_ready s _).trans isOpen), List.length_append, length, finalResult_length, fill]
  rfl

/-- Settles O45: the loop puts out the whole blocks, and FINAL the rest of them or nothing. -/
theorem streamOutputLength : Obligations.StreamOutputLength := by
  unfold Obligations.StreamOutputLength
  intro s cs isOpen empty legal len
  have err := runStream_err isOpen legal
  have length := runStream_length isOpen legal
  rw [empty, Nat.zero_add] at err length
  refine ⟨fun streamMode => ?partialAllowed, fun wholeBlocks => ?wholeOnly⟩
  case partialAllowed =>
    rw [if_neg (by simp [streamMode])] at err
    exact ⟨err, by rw [length, if_pos err, Nat.div_add_mod']⟩
  case wholeOnly =>
    by_cases whole : len % 16 = 0
    · rw [if_neg (fun h => h.1 whole)] at err
      exact ⟨by rw [length, if_pos err, whole, Nat.add_zero], fun _ => err, fun rest => absurd whole rest⟩
    · rw [if_pos ⟨whole, wholeBlocks⟩] at err
      exact ⟨by rw [length, err]; rfl, fun noRest => absurd noRest whole, fun _ => err⟩

end Sys2Proof.Machine
end

section
/-! PROOFS. The family 44_control.md: NOP (R190). -/

namespace Sys2Proof

/-! The words of the commands without fields (30_encoding.md R71, R79) -/

/-- A command other than the row "(reserved)" comes from the decoder of legal words. -/
theorem decodeCommand_of_decodeWord {c : Word} {i : Instr} (decoded : decodeWord c = i) (legal : i ≠ .reserved c) :
    decodeCommand c = .ok i := by
  rw [decodeWord] at decoded
  split at decoded
  next j command => rw [command, decoded]
  next => exact absurd decoded.symm legal

/-- The opcode and the zeros above it are the whole word of NOP, FINAL or ZEROIZE; no other opcode names one of them. -/
theorem eq_encode_of_decodeCommand {c : Word} {i : Instr} (fieldless : i = .nop ∨ i = .final ∨ i = .zeroize)
    (decoded : decodeCommand c = .ok i) : c = encode i := by
  match opc : (c.extractLsb' 0 4).toNat with
  | 0 | 3 | 5 =>
    simp only [decodeCommand, opc] at decoded
    obtain ⟨reserved, rfl⟩ := decodeN_eq_ok decoded
    exact word_ext_opcode (BitVec.eq_of_toNat_eq opc) reserved
  | 1 =>
    simp only [decodeCommand, opc] at decoded
    obtain ⟨_, _, _, _, _, _, rfl⟩ := decodeI_eq_ok decoded
    simp at fieldless
  | 2 | 4 =>
    simp only [decodeCommand, opc] at decoded
    obtain ⟨_, rfl⟩ := decodeC_eq_ok decoded
    simp at fieldless
  | n + 6 => simp [decodeCommand, opc] at decoded

/-- NOP, FINAL and ZEROIZE have one word each. -/
theorem decodeWord_eq_iff_of_fieldless {i : Instr} (fieldless : i = .nop ∨ i = .final ∨ i = .zeroize) (c : Word) :
    decodeWord c = i ↔ c = encode i := by
  constructor
  · intro decoded
    have legal : i ≠ .reserved c := by rintro rfl; simp at fieldless
    exact eq_encode_of_decodeCommand fieldless (decodeCommand_of_decodeWord decoded legal)
  · rintro rfl
    obtain rfl | rfl | rfl := fieldless
    · exact decode_nop_word
    · exact decode_final_word
    · exact decode_zeroize_word

end Sys2Proof

namespace Sys2Proof.Machine

theorem exec_nop (s : State) : exec .nop s = .next (s.complete .ok []) := rfl

/-- Settles O50: NOP has no fields, so its opcode is its whole word, and it is a completion without output. -/
theorem nopClearsTheCompletionRecord : Obligations.NopClearsTheCompletionRecord := by
  unfold Obligations.NopClearsTheCompletionRecord
  exact ⟨decodeWord_eq_iff_of_fieldless (.inl rfl), fun s => by rw [exec_nop, complete_noOutput]⟩

end Sys2Proof.Machine
end

section
/-! PROOFS. The family 60_exceptions.md: what a command that completes with an error leaves (R203, R205). -/

namespace Sys2Proof.Machine

/-- A completion writes ERR, OUTLEN, DOUT and BUSY, and nothing else (60_exceptions.md R202). -/
theorem eq_of_eq_complete {s t : State} {code : ErrCode} {out : List Byte} (h : t = s.complete code out) :
    t = { s with err := t.err, outlen := t.outlen, dout := t.dout, inflight := t.inflight } := by
  subst h
  rfl

/-! Completions with an error (60_exceptions.md R205) -/

/-- What an error's completion record is written on, by its code: a configuration error of INIT has closed the stream,
ERR_DATA_LEN of FINAL has also reloaded FB, every other error has changed nothing. -/
def State.errorBase (s : State) (code : ErrCode) : State :=
  match code with
  | .keyLen | .param => s.closeStream
  | .dataLen => { s.closeStream with fb := s.ivcfg }
  | .ok | .cmd | .state | .input => s

theorem errorBase_of_unchanged (s : State) {code : ErrCode} (h : code = .cmd ∨ code = .state ∨ code = .input) :
    s.errorBase code = s := by
  obtain rfl | rfl | rfl := h <;> rfl

theorem errorBase_of_closing (s : State) {code : ErrCode} (h : code = .keyLen ∨ code = .param) :
    s.errorBase code = s.closeStream := by
  obtain rfl | rfl := h <;> rfl

/-- Whatever the command, an error is a completion without output, on the state its code names. -/
theorem exec_error_eq {i : Instr} {s t : State} (he : exec i s = .next t) (error : t.err ≠ .ok) :
    t = (s.errorBase t.err).complete t.err [] := by
  cases i with
  | nop => cases he; exact absurd rfl error
  | init mode dir lk li klen ivlen =>
    rw [exec_init] at he
    obtain ⟨code, -, closing, e⟩ | ⟨-, e⟩ := execInit_cases mode dir lk li klen ivlen s <;> rw [e] at he <;> cases he
    · rw [complete_err, errorBase_of_closing s closing]
    · exact absurd rfl error
  | update n =>
    simp only [exec] at he
    obtain ⟨-, e⟩ | ⟨-, -, e⟩ | ⟨-, -, e⟩ := execUpdate_cases n s <;> rw [e] at he <;> cases he
    · rfl
    · rfl
    · exact absurd rfl error
  | final =>
    cases isOpen : s.ready with
    | false => rw [exec_final_closed isOpen] at he; cases he; rfl
    | true =>
      rw [exec_final_open isOpen] at he
      obtain ⟨-, e⟩ | ⟨-, -, e⟩ | ⟨-, -, e⟩ := finalResult_cases s <;> rw [e] at he <;> cases he
      · exact absurd rfl error
      · rfl
      · exact absurd rfl error
  | block n =>
    simp only [exec] at he
    obtain ⟨-, e⟩ | ⟨-, -, e⟩ | ⟨-, -, e⟩ | ⟨-, -, e⟩ := execBlock_cases n s <;> rw [e] at he <;> cases he
    · rfl
    · rfl
    · rfl
    · exact absurd rfl error
  | zeroize => cases he; exact absurd rfl error
  | reserved w => cases he; rfl

/-- Settles O55: an error is a completion without output. -/
theorem noPartialOutput : Obligations.NoPartialOutput := by
  unfold Obligations.NoPartialOutput
  intro i s t he error
  rw [exec_error_eq he error, complete_noOutput]
  exact ⟨rfl, rfl⟩

/-- Settles O56: beyond the completion record, an error changes what its code's `errorBase` changes. -/
theorem errorEffects : Obligations.ErrorEffects := by
  unfold Obligations.ErrorEffects
  intro i s t he
  have completed (base : State) (named : s.errorBase t.err = base) (error : t.err ≠ .ok) :
      t = { base with err := t.err, outlen := t.outlen, dout := t.dout, inflight := t.inflight } :=
    eq_of_eq_complete (named ▸ exec_error_eq he error)
  refine ⟨fun code => ?unchanged, fun code => ?closing, fun code => ?dataLen⟩
  case unchanged =>
    exact completed s (errorBase_of_unchanged s code) (fun ok => by simp [ok] at code)
  case closing =>
    exact completed s.closeStream (errorBase_of_closing s code) (fun ok => by simp [ok] at code)
  case dataLen =>
    exact completed { s.closeStream with fb := s.ivcfg } (by rw [code]; rfl) (by simp [code])

end Sys2Proof.Machine
end

section
/-! PROOFS. The family 70_reset_and_hazards.md: what the registers read after reset (R232). -/

namespace Sys2Proof.Machine

/-- A word packed from zero bytes, or from beyond them, is 0 (20_memory.md R55). -/
@[simp] theorem packWord_replicate_zero (n k : Nat) : packWord (Vector.replicate n 0) k = 0 := by
  have byte (i : Nat) : (Vector.replicate n (0 : Byte))[i]?.getD 0 = 0 := by
    rw [Vector.getElem?_replicate]
    split <;> rfl
  rw [packWord, byte, byte, byte, byte]
  rfl

/-- Every field of STATUS is 0 after reset: MODE = ECB and ERR = OK have the number 0 (10_state.md R27). -/
@[simp] theorem reset_statusWord : State.reset.statusWord = 0 := by decide

/-- The registers that read an element of the state, and those that are write-only, read 0 after reset. -/
theorem readReg_reset_of_ne_id (r : Reg) (notId : r ≠ .id) : State.reset.readReg r = 0 := by
  cases r with
  | id => exact absurd rfl notId
  | cmd | key => exact readReg_of_writeOnly State.reset _ rfl
  | status => exact reset_statusWord
  | qlen | osize | usize => rfl
  | iv k | din k | dout k => exact packWord_replicate_zero 16 k.val

/-- Settles O22: ID is a constant, and every other register reads 0, STATUS among them. -/
theorem registersAfterReset : Obligations.RegistersAfterReset := by
  unfold Obligations.RegistersAfterReset
  exact ⟨rfl, reset_statusWord, readReg_reset_of_ne_id⟩

end Sys2Proof.Machine
end

section
/-! PROOFS. Decoder and encoder (30_encoding.md R71 to R80, R85): each undoes the other, the decoder and the opcode map
agree, and a disassembled word has the effect of the word. -/

namespace Sys2Proof

/-! The fields of an encoded word are the operands put in (30_encoding.md R72, R73) -/

theorem encodeC_fields (opc : BitVec 4) (n : BitVec 5) :
    (encodeC opc n).extractLsb' 0 4 = opc ∧ (encodeC opc n).extractLsb' 4 5 = n ∧
    (encodeC opc n).extractLsb' 9 23 = 0 := by
  refine ⟨?_, ?_, ?_⟩ <;>
    simp [encodeC, BitVec.extractLsb'_or, fieldAt_extractLsb'_self, fieldAt_extractLsb'_disjoint]

theorem encodeI_fields (mode : Mode) (dir lk li : Bool) (klen : BitVec 6) (ivlen : BitVec 5) :
    (encodeI mode dir lk li klen ivlen).extractLsb' 0 4 = 1 ∧
    (encodeI mode dir lk li klen ivlen).extractLsb' 4 3 = mode.code ∧
    (encodeI mode dir lk li klen ivlen).extractLsb' 10 6 = klen ∧
    (encodeI mode dir lk li klen ivlen).extractLsb' 16 5 = ivlen ∧
    (encodeI mode dir lk li klen ivlen).extractLsb' 21 11 = 0 := by
  refine ⟨?_, ?_, ?_, ?_, ?_⟩ <;>
    simp [encodeI, BitVec.extractLsb'_or, fieldAt_extractLsb'_self, fieldAt_extractLsb'_disjoint,
      flagAt_extractLsb'_disjoint]

theorem encodeI_flags (mode : Mode) (dir lk li : Bool) (klen : BitVec 6) (ivlen : BitVec 5) :
    (encodeI mode dir lk li klen ivlen).getLsbD 7 = dir ∧ (encodeI mode dir lk li klen ivlen).getLsbD 8 = lk ∧
    (encodeI mode dir lk li klen ivlen).getLsbD 9 = li := by
  refine ⟨?_, ?_, ?_⟩ <;> rw [encodeI_getLsbD] <;> simp

/-! Decoding an encoded command -/

theorem decodeC_encodeC (opc : BitVec 4) {n : BitVec 5} (mk : BitVec 5 → Instr) (count : n.toNat ≤ 16) :
    decodeC (encodeC opc n) mk = .ok (mk n) := by
  obtain ⟨-, operand, reserved⟩ := encodeC_fields opc n
  rw [decodeC, if_pos reserved, operand, if_pos count]

theorem decodeI_encodeI (mode : Mode) (dir lk li : Bool) (klen : BitVec 6) (ivlen : BitVec 5) :
    decodeI (encodeI mode dir lk li klen ivlen) = .ok (.init mode dir lk li klen ivlen) := by
  obtain ⟨-, modeField, klenField, ivlenField, reserved⟩ := encodeI_fields mode dir lk li klen ivlen
  obtain ⟨dirFlag, lkFlag, liFlag⟩ := encodeI_flags mode dir lk li klen ivlen
  simp only [decodeI, if_pos reserved, modeField, Mode.ofCode_code, dirFlag, lkFlag, liFlag, klenField, ivlenField]

theorem decodeWord_of_decodeCommand {c : Word} {i : Instr} (decoded : decodeCommand c = .ok i) : decodeWord c = i := by
  rw [decodeWord, decoded]

end Sys2Proof

namespace Sys2Proof.Machine

/-- Settles O2: the decoder reads back each field of the word, and no row accepts the word of a well-formed
`reserved`. -/
theorem decodeOfEncode : Obligations.DecodeOfEncode := by
  unfold Obligations.DecodeOfEncode
  intro i wellFormed
  cases i with
  | nop => exact decode_nop_word
  | final => exact decode_final_word
  | zeroize => exact decode_zeroize_word
  | init mode dir lk li klen ivlen =>
    have opcode := (encodeI_fields mode dir lk li klen ivlen).1
    refine decodeWord_of_decodeCommand ?_
    rw [encode, decodeCommand, opcode]
    exact decodeI_encodeI mode dir lk li klen ivlen
  | update n =>
    have opcode := (encodeC_fields 2 n).1
    refine decodeWord_of_decodeCommand ?_
    rw [encode, decodeCommand, opcode]
    exact decodeC_encodeC 2 .update (of_decide_eq_true wellFormed)
  | block n =>
    have opcode := (encodeC_fields 4 n).1
    refine decodeWord_of_decodeCommand ?_
    rw [encode, decodeCommand, opcode]
    exact decodeC_encodeC 4 .block (of_decide_eq_true wellFormed)
  | reserved w =>
    have illegal : legalWord w = false := by simpa [Instr.wellFormed] using wellFormed
    exact decodeWord_of_illegal illegal

/-! A word is illegal exactly when no row accepts it (30_encoding.md R78, R80) -/

/-- What a row's mask and match say: the opcode, and the reserved bits of its format. -/
theorem fields_of_and_formatMask {c : Word} (lo n : Nat) {m : Nat} (opc : BitVec m) (place : m ≤ lo ∧ lo + n ≤ 32)
    (bits : c &&& (fieldAt lo (BitVec.allOnes n) ||| fieldAt 0 (BitVec.allOnes m)) = fieldAt 0 opc) :
    c.extractLsb' 0 m = opc ∧ c.extractLsb' lo n = 0 := by
  obtain ⟨aboveOpcode, inWord⟩ := place
  constructor
  · have low := congrArg (·.extractLsb' 0 m) bits
    simpa [BitVec.extractLsb'_and, BitVec.extractLsb'_or, fieldAt_extractLsb'_self, fieldAt_extractLsb'_disjoint,
      aboveOpcode, show m ≤ 32 by omega] using low
  · have high := congrArg (·.extractLsb' lo n) bits
    simpa [BitVec.extractLsb'_and, BitVec.extractLsb'_or, fieldAt_extractLsb'_self, fieldAt_extractLsb'_disjoint,
      aboveOpcode, inWord] using high

theorem legalWord_iff (c : Word) :
    legalWord c = true ↔ ∃ r ∈ opcodeMap, c &&& r.mask = r.matchBits ∧ r.further.holds c = true := by
  simp [legalWord, OpcodeRow.accepts]

/-- A word that a row accepts has none of the faults of 30_encoding.md R80. -/
theorem decodeWord_ne_reserved_of_legal {c : Word} (legal : legalWord c = true) : decodeWord c ≠ .reserved c := by
  obtain ⟨r, listed, bits, further⟩ := (legalWord_iff c).mp legal
  obtain ⟨reservedIff, -⟩ := illegalWordsCompleteWithErrCmd c
  rw [Ne, reservedIff]
  simp only [opcodeMap, List.mem_cons, List.not_mem_nil, or_false] at listed
  rcases listed with rfl | rfl | rfl | rfl | rfl | rfl
  · obtain ⟨opcode, reserved⟩ := fields_of_and_formatMask 4 28 0#4 (by decide) bits
    simp [opcode, reserved]
  · obtain ⟨opcode, reserved⟩ := fields_of_and_formatMask 21 11 1#4 (by decide) bits
    have mode : (c.extractLsb' 4 3).toNat < 5 := Nat.lt_succ_of_le (of_decide_eq_true further)
    simp [opcode, reserved, mode, -BitVec.extractLsb'_toNat]
  · obtain ⟨opcode, reserved⟩ := fields_of_and_formatMask 9 23 2#4 (by decide) bits
    have count : (c.extractLsb' 4 5).toNat < 17 := Nat.lt_succ_of_le (of_decide_eq_true further)
    simp [opcode, reserved, count, -BitVec.extractLsb'_toNat]
  · obtain ⟨opcode, reserved⟩ := fields_of_and_formatMask 4 28 3#4 (by decide) bits
    simp [opcode, reserved]
  · obtain ⟨opcode, reserved⟩ := fields_of_and_formatMask 9 23 4#4 (by decide) bits
    have count : (c.extractLsb' 4 5).toNat < 17 := Nat.lt_succ_of_le (of_decide_eq_true further)
    simp [opcode, reserved, count, -BitVec.extractLsb'_toNat]
  · obtain ⟨opcode, reserved⟩ := fields_of_and_formatMask 4 28 5#4 (by decide) bits
    simp [opcode, reserved]

/-! Encoding a decoded word -/

/-- Words that agree in a range of bits agree in each bit of it. -/
theorem getLsbD_eq_of_extractLsb'_eq {c d : Word} {lo n i : Nat} (range : c.extractLsb' lo n = d.extractLsb' lo n)
    (inRange : lo ≤ i ∧ i < lo + n) : c.getLsbD i = d.getLsbD i := by
  have bit := congrArg (·.getLsbD (i - lo)) range
  simpa [BitVec.getLsbD_extractLsb', Nat.add_sub_cancel' inRange.1, show i - lo < n by omega] using bit

/-- A word is determined by the fields of format C. -/
theorem word_ext_formatC {c d : Word} (opcode : c.extractLsb' 0 4 = d.extractLsb' 0 4)
    (count : c.extractLsb' 4 5 = d.extractLsb' 4 5) (reserved : c.extractLsb' 9 23 = d.extractLsb' 9 23) : c = d := by
  refine BitVec.eq_of_getLsbD_eq fun i hi => ?_
  rcases Nat.lt_or_ge i 4 with h4 | h4
  · exact getLsbD_eq_of_extractLsb'_eq opcode (by omega)
  rcases Nat.lt_or_ge i 9 with h9 | h9
  · exact getLsbD_eq_of_extractLsb'_eq count (by omega)
  · exact getLsbD_eq_of_extractLsb'_eq reserved (by omega)

/-- A word is determined by the fields of format I. -/
theorem word_ext_formatI {c d : Word} (opcode : c.extractLsb' 0 4 = d.extractLsb' 0 4)
    (mode : c.extractLsb' 4 3 = d.extractLsb' 4 3) (dir : c.getLsbD 7 = d.getLsbD 7) (lk : c.getLsbD 8 = d.getLsbD 8)
    (li : c.getLsbD 9 = d.getLsbD 9) (klen : c.extractLsb' 10 6 = d.extractLsb' 10 6)
    (ivlen : c.extractLsb' 16 5 = d.extractLsb' 16 5) (reserved : c.extractLsb' 21 11 = d.extractLsb' 21 11) :
    c = d := by
  refine BitVec.eq_of_getLsbD_eq fun i hi => ?_
  have field : i < 4 ∨ 4 ≤ i ∧ i < 7 ∨ i = 7 ∨ i = 8 ∨ i = 9 ∨ 10 ≤ i ∧ i < 16 ∨ 16 ≤ i ∧ i < 21 ∨ 21 ≤ i := by omega
  obtain h | h | rfl | rfl | rfl | h | h | h := field
  · exact getLsbD_eq_of_extractLsb'_eq opcode (by omega)
  · exact getLsbD_eq_of_extractLsb'_eq mode (by omega)
  · exact dir
  · exact lk
  · exact li
  · exact getLsbD_eq_of_extractLsb'_eq klen (by omega)
  · exact getLsbD_eq_of_extractLsb'_eq ivlen (by omega)
  · exact getLsbD_eq_of_extractLsb'_eq reserved (by omega)

/-- Decoded as format C, a word is the word of its opcode and COUNT. -/
theorem encodeC_of_decodeC {c : Word} {opc : BitVec 4} {mk : BitVec 5 → Instr} {i : Instr}
    (opcode : c.extractLsb' 0 4 = opc) (decoded : decodeC c mk = .ok i) :
    ∃ n : BitVec 5, i = mk n ∧ n.toNat ≤ 16 ∧ encodeC opc n = c := by
  rw [decodeC] at decoded
  split at decoded
  next reserved =>
    split at decoded
    next count =>
      obtain ⟨opcode', count', reserved'⟩ := encodeC_fields opc (c.extractLsb' 4 5)
      exact ⟨_, (Except.ok.inj decoded).symm, count, word_ext_formatC (opcode'.trans opcode.symm) count'
        (reserved'.trans reserved.symm)⟩
    next => cases decoded
  next => cases decoded

/-- Decoded as format I, a word is the word of the INIT it names. -/
theorem encode_of_decodeI {c : Word} {i : Instr} (opcode : c.extractLsb' 0 4 = 1) (decoded : decodeI c = .ok i) :
    encode i = c ∧ i.wellFormed = true := by
  rw [decodeI] at decoded
  split at decoded
  next reserved =>
    obtain ⟨-, m, named, code⟩ | ⟨-, unnamed⟩ := Mode.ofCode_cases (c.extractLsb' 4 3)
    · rw [named] at decoded
      obtain rfl := Except.ok.inj decoded
      obtain ⟨opcode', mode', klen', ivlen', reserved'⟩ := encodeI_fields m (c.getLsbD 7) (c.getLsbD 8)
        (c.getLsbD 9) (c.extractLsb' 10 6) (c.extractLsb' 16 5)
      obtain ⟨dir', lk', li'⟩ := encodeI_flags m (c.getLsbD 7) (c.getLsbD 8) (c.getLsbD 9) (c.extractLsb' 10 6)
        (c.extractLsb' 16 5)
      exact ⟨word_ext_formatI (opcode'.trans opcode.symm) (mode'.trans code) dir' lk' li' klen' ivlen'
        (reserved'.trans reserved.symm), rfl⟩
    · rw [unnamed] at decoded
      cases decoded
  next => cases decoded

/-- A legal command that a word decodes to is well-formed, and the word is its own. -/
theorem encode_of_decodeCommand {c : Word} {i : Instr} (decoded : decodeCommand c = .ok i) :
    encode i = c ∧ i.wellFormed = true := by
  match opc : (c.extractLsb' 0 4).toNat with
  | 0 | 3 | 5 =>
    simp only [decodeCommand, opc] at decoded
    obtain ⟨reserved, rfl⟩ := decodeN_eq_ok decoded
    exact ⟨(word_ext_opcode (BitVec.eq_of_toNat_eq opc) reserved).symm, rfl⟩
  | 1 =>
    simp only [decodeCommand, opc] at decoded
    exact encode_of_decodeI (BitVec.eq_of_toNat_eq opc) decoded
  | 2 =>
    simp only [decodeCommand, opc] at decoded
    obtain ⟨n, rfl, count, word⟩ := encodeC_of_decodeC (opc := 2) (BitVec.eq_of_toNat_eq opc) decoded
    exact ⟨word, decide_eq_true count⟩
  | 4 =>
    simp only [decodeCommand, opc] at decoded
    obtain ⟨n, rfl, count, word⟩ := encodeC_of_decodeC (opc := 4) (BitVec.eq_of_toNat_eq opc) decoded
    exact ⟨word, decide_eq_true count⟩
  | n + 6 => simp [decodeCommand, opc] at decoded

/-- Settles O3: a legal word is rebuilt from its fields, and an illegal one is kept whole in `reserved`. -/
theorem encodeOfDecode : Obligations.EncodeOfDecode := by
  unfold Obligations.EncodeOfDecode
  intro c
  by_cases illegal : decodeWord c = .reserved c
  · have unaccepted : legalWord c = false :=
      Bool.eq_false_iff.mpr fun legal => decodeWord_ne_reserved_of_legal legal illegal
    rw [illegal]
    exact ⟨rfl, by rw [Instr.wellFormed, unaccepted]; rfl⟩
  · exact encode_of_decodeCommand (decodeCommand_of_decodeWord rfl illegal)

/-- An illegal word decodes to `reserved` of itself only. -/
theorem eq_of_decodeWord_eq_reserved {c w : Word} (decoded : decodeWord c = .reserved w) : w = c := by
  have word := (encodeOfDecode c).1
  rwa [decoded] at word

/-- Settles O4: `reserved` can only carry the word itself, and a row accepts a word exactly when it does not decode to
that. -/
theorem legalExactlyByOpcodeMap : Obligations.LegalExactlyByOpcodeMap := by
  unfold Obligations.LegalExactlyByOpcodeMap
  intro c
  rw [← legalWord_iff]
  refine ⟨fun decoded => legalWord_of_decodeWord_ne (decoded c), fun legal w decoded => ?_⟩
  rw [eq_of_decodeWord_eq_reserved decoded] at decoded
  exact decodeWord_ne_reserved_of_legal legal decoded

/-! The disassembler (30_encoding.md R85) -/

/-- Printing a command and reading it back clears INIT's fields that are not examined, and nothing else. -/
theorem exec_toInstr_formOf (i : Instr) (s : State) : exec (formOf i).toInstr s = exec i s := by
  cases i with
  | init mode dir lk li klen ivlen =>
    have noKey (li : Bool) (ivlen : BitVec 5) := (dontCareFieldsAreIgnored mode dir li false klen ivlen s).1
    have noIv (lk : Bool) (klen : BitVec 6) := (dontCareFieldsAreIgnored mode dir false lk klen ivlen s).2.1
    cases lk <;> cases li
    · exact (noIv false 0).symm.trans (noKey false ivlen).symm
    · exact (noKey true ivlen).symm
    · exact (noIv true klen).symm
    · rfl
  | nop | update | final | block | zeroize | reserved => rfl

theorem wellFormed_toInstr_formOf {i : Instr} (wellFormed : i.wellFormed = true) :
    (formOf i).toInstr.wellFormed = true := by
  cases i with
  | init => rfl
  | nop | update | final | block | zeroize | reserved => exact wellFormed

/-- Settles O7: the word assembled decodes to the form's command, which differs from the word's own only in fields that
are not examined. -/
theorem disassemblyAssemblesToTheSameCommand : Obligations.DisassemblyAssemblesToTheSameCommand := by
  unfold Obligations.DisassemblyAssemblesToTheSameCommand
  intro c
  refine ⟨fun s => ?_, fun illegal => ?_⟩
  · rw [CmdForm.word, disassemble, decodeOfEncode _ (wellFormed_toInstr_formOf (encodeOfDecode c).2)]
    exact exec_toInstr_formOf (decodeWord c) s
  · rw [disassemble, decodeWord_of_illegal illegal]
    rfl

/-- Settles O1: the nine words, each decoded. -/
theorem listedCommandWordsDecode : Obligations.ListedCommandWordsDecode := by
  unfold Obligations.ListedCommandWordsDecode
  exact ⟨decode_nop_word, by decide, by decide, by decide, by decide, decode_final_word, by decide,
    decode_zeroize_word, decode_reserved_word⟩

end Sys2Proof.Machine
end

section
/-! PROOFS. The commands as a whole: that each completes (60_exceptions.md R200), what it can change (10_state.md R21 to
R37, 40_aes_engine.md R112), which streams it opens and closes (10_state.md R29), INIT's operands (41_init.md R144) and
ZEROIZE (44_control.md R191). -/

namespace Sys2Proof.Machine

/-! Every command completes -/

theorem exec_completes (i : Instr) (s : State) : ∃ t, exec i s = .next t := by
  cases i with
  | nop | zeroize | reserved => exact ⟨_, rfl⟩
  | init mode dir lk li klen ivlen =>
    obtain ⟨_, -, -, e⟩ | ⟨-, e⟩ := execInit_cases mode dir lk li klen ivlen s <;> exact ⟨_, e⟩
  | update n => obtain ⟨-, e⟩ | ⟨-, -, e⟩ | ⟨-, -, e⟩ := execUpdate_cases n s <;> exact ⟨_, e⟩
  | final =>
    cases isOpen : s.ready with
    | false => exact ⟨_, exec_final_closed isOpen⟩
    | true => exact ⟨_, exec_final_open isOpen⟩
  | block n => obtain ⟨-, e⟩ | ⟨-, -, e⟩ | ⟨-, -, e⟩ | ⟨-, -, e⟩ := execBlock_cases n s <;> exact ⟨_, e⟩

/-- Settles O9: each case of each command is a next state, and the completion record puts BUSY back. -/
theorem everyCommandCompletes : Obligations.EveryCommandCompletes := by
  unfold Obligations.EveryCommandCompletes
  intro i s
  obtain ⟨t, he⟩ := exec_completes i s
  exact ⟨t, he, by rw [State.busy, exec_inflight he]; rfl⟩

/-! What a command can change -/

/-- `t` is `s` but for the running stream's FB, ACC, FILL and READY and the completion record. -/
def OnlyStreamChanged (s t : State) : Prop :=
  t = { s with fb := t.fb, acc := t.acc, fill := t.fill, ready := t.ready, err := t.err, outlen := t.outlen,
               dout := t.dout, inflight := t.inflight }

/-- The state a successful INIT completes in (41_init.md R142). -/
def State.initialised (s : State) (mode : Mode) (dir lk li : Bool) (klen : BitVec 6) : State :=
  (((s.loadKeyIf lk klen).loadIvIf li).openStream mode dir).complete .ok []

/-- ZEROIZE clears everything, a successful INIT configures, and every other completion stays within the stream. -/
theorem exec_cases {i : Instr} {s t : State} (he : exec i s = .next t) :
    (i = .zeroize ∧ t = s.clearElements.complete .ok []) ∨
    (∃ mode dir lk li klen ivlen, i = .init mode dir lk li klen ivlen ∧
      initError s mode lk li klen ivlen = none ∧ t = s.initialised mode dir lk li klen) ∨
    OnlyStreamChanged s t := by
  cases i with
  | nop | reserved => cases he; exact .inr (.inr rfl)
  | zeroize => cases he; exact .inl ⟨rfl, rfl⟩
  | init mode dir lk li klen ivlen =>
    rw [exec_init] at he
    obtain ⟨code, -, -, e⟩ | ⟨passed, e⟩ := execInit_cases mode dir lk li klen ivlen s <;> rw [e] at he <;> cases he
    · exact .inr (.inr rfl)
    · exact .inr (.inl ⟨mode, dir, lk, li, klen, ivlen, rfl, passed, rfl⟩)
  | update n =>
    simp only [exec] at he
    obtain ⟨-, e⟩ | ⟨-, -, e⟩ | ⟨-, -, e⟩ := execUpdate_cases n s <;> rw [e] at he <;> cases he
    · exact .inr (.inr rfl)
    · exact .inr (.inr rfl)
    · obtain ⟨fb, acc, fill, frame⟩ := absorb_frame (s.dinBytes n) s
      rw [frame]
      exact .inr (.inr rfl)
  | final =>
    cases isOpen : s.ready with
    | false => rw [exec_final_closed isOpen] at he; cases he; exact .inr (.inr rfl)
    | true => rw [exec_final_open isOpen] at he; cases he; exact .inr (.inr rfl)
  | block n =>
    simp only [exec] at he
    obtain ⟨-, e⟩ | ⟨-, -, e⟩ | ⟨-, -, e⟩ | ⟨-, -, e⟩ := execBlock_cases n s <;> rw [e] at he <;> cases he <;>
      exact .inr (.inr rfl)

/-- Settles O58: of the three cases only ZEROIZE's writes an operand register, and none a field of the model's own. -/
theorem commandsLeaveOperandRegisters : Obligations.CommandsLeaveOperandRegisters := by
  unfold Obligations.CommandsLeaveOperandRegisters
  intro i s t he
  obtain ⟨rfl, rfl⟩ | ⟨mode, dir, lk, li, klen, ivlen, rfl, -, rfl⟩ | frame := exec_cases he
  · exact ⟨rfl, rfl, rfl, fun other => absurd rfl other⟩
  · simp [State.initialised]
  · rw [frame]
    exact ⟨rfl, rfl, rfl, fun _ => ⟨rfl, rfl, rfl, rfl⟩⟩

/-- Settles O57: ZEROIZE apart, a configuration element can only change in the case of a successful INIT, and there by
its flag. -/
theorem onlyInitAndZeroizeReconfigure : Obligations.OnlyInitAndZeroizeReconfigure := by
  unfold Obligations.OnlyInitAndZeroizeReconfigure
  intro i s t he notZeroize
  obtain ⟨zeroize, -⟩ | ⟨mode, dir, lk, li, klen, ivlen, rfl, passed, rfl⟩ | frame := exec_cases he
  · exact absurd zeroize notZeroize
  · refine ⟨fun changed => ⟨rfl, ?key⟩, fun changed => ⟨rfl, ?iv⟩, fun _ => ⟨rfl, lk, li, klen, ivlen, rfl⟩⟩
    case key =>
      cases lk with
      | false => simp [State.initialised] at changed
      | true => exact ⟨mode, dir, li, klen, ivlen, rfl⟩
    case iv =>
      cases li with
      | false => simp [State.initialised] at changed
      | true => exact ⟨mode, dir, lk, klen, ivlen, rfl⟩
  · rw [frame]
    exact ⟨fun changed => absurd rfl changed, fun changed => absurd rfl changed, fun changed => absurd rfl changed⟩

/-! The key schedule (10_state.md R30, R35, R36) -/

/-- Every command keeps that W, NR and KEYED hold an expansion of a legal key, or nothing. -/
theorem exec_keeps_holdsSchedule {i : Instr} {s t : State} (h : HoldsSchedule s) (he : exec i s = .next t) :
    HoldsSchedule t := by
  obtain ⟨-, rfl⟩ | ⟨mode, dir, lk, li, klen, ivlen, -, passed, rfl⟩ | frame := exec_cases he
  · exact .inr ⟨rfl, rfl, rfl⟩
  · obtain ⟨keyLen, -, -, -⟩ := (initError_none_iff s mode lk li klen ivlen).mp passed
    cases lk with
    | false => simpa [HoldsSchedule, State.initialised] using h
    | true => exact .inl ⟨by simp [State.initialised], s.keyIn, klen, keyLen rfl, by simp [State.initialised]⟩
  · rw [frame]
    exact h

/-! Which streams a command opens and closes (10_state.md R29) -/

/-- The row INIT of the opcode map, whatever its operands. -/
def IsInit (i : Instr) : Prop := ∃ mode dir lk li klen ivlen, i = .init mode dir lk li klen ivlen

/-- READY after a command, and which of INIT's codes it can complete with: INIT opens or closes, FINAL and ZEROIZE
close, and the others leave the stream as it is. -/
theorem exec_ready_cases {i : Instr} {s t : State} (he : exec i s = .next t) :
    (IsInit i ∧ (t.err = .ok ∧ t.ready = true ∨ (t.err = .keyLen ∨ t.err = .param) ∧ t.ready = false)) ∨
    (¬IsInit i ∧ (t.err ≠ .keyLen ∧ t.err ≠ .param) ∧
      ((i = .final ∨ i = .zeroize) ∧ t.ready = false ∨ (i ≠ .final ∧ i ≠ .zeroize) ∧ t.ready = s.ready)) := by
  cases i with
  | nop | reserved => cases he; exact .inr ⟨by simp [IsInit], by simp, .inr ⟨by simp, rfl⟩⟩
  | zeroize => cases he; exact .inr ⟨by simp [IsInit], by simp, .inl ⟨.inr rfl, rfl⟩⟩
  | init mode dir lk li klen ivlen =>
    rw [exec_init] at he
    refine .inl ⟨⟨mode, dir, lk, li, klen, ivlen, rfl⟩, ?_⟩
    obtain ⟨code, -, codes, e⟩ | ⟨-, e⟩ := execInit_cases mode dir lk li klen ivlen s <;> rw [e] at he <;> cases he
    · exact .inr ⟨codes, rfl⟩
    · exact .inl ⟨rfl, rfl⟩
  | update n =>
    simp only [exec] at he
    refine .inr ⟨by simp [IsInit], ?_⟩
    obtain ⟨-, e⟩ | ⟨-, -, e⟩ | ⟨-, -, e⟩ := execUpdate_cases n s <;> rw [e] at he <;> cases he <;>
      simp [absorb_ready]
  | final =>
    refine .inr ⟨by simp [IsInit], ?_⟩
    cases isOpen : s.ready with
    | false => rw [exec_final_closed isOpen] at he; cases he; simp [isOpen]
    | true =>
      rw [exec_final_open isOpen] at he
      cases he
      refine ⟨?_, .inl ⟨.inl rfl, rfl⟩⟩
      rw [complete_err, finalResult_err]
      split <;> simp
  | block n =>
    simp only [exec] at he
    refine .inr ⟨by simp [IsInit], ?_⟩
    obtain ⟨-, e⟩ | ⟨-, -, e⟩ | ⟨-, -, e⟩ | ⟨-, -, e⟩ := execBlock_cases n s <;> rw [e] at he <;> cases he <;> simp

/-- ERR_STATE is the code of the streaming commands with READY = 0, and of no other completion. -/
theorem exec_err_state_iff {i : Instr} {s t : State} (he : exec i s = .next t) :
    t.err = .state ↔
      s.ready = false ∧ (i = .final ∨ ∃ n : BitVec 5, n.toNat ≤ 16 ∧ (i = .update n ∨ i = .block n)) := by
  cases i with
  | nop | reserved | zeroize => cases he; simp
  | init mode dir lk li klen ivlen =>
    rw [exec_init] at he
    obtain ⟨code, -, rfl | rfl, e⟩ | ⟨-, e⟩ := execInit_cases mode dir lk li klen ivlen s <;> rw [e] at he <;>
      cases he <;> simp
  | update n =>
    simp only [exec] at he
    obtain ⟨many, e⟩ | ⟨count, closed, e⟩ | ⟨-, isOpen, e⟩ := execUpdate_cases n s <;> rw [e] at he <;> cases he
    · simp [many]
    · simp [count, closed]
    · simp [isOpen]
  | final =>
    cases isOpen : s.ready with
    | false => rw [exec_final_closed isOpen] at he; cases he; simp
    | true =>
      rw [exec_final_open isOpen] at he
      cases he
      rw [complete_err, finalResult_err]
      split <;> simp
  | block n =>
    simp only [exec] at he
    obtain ⟨many, e⟩ | ⟨count, closed, e⟩ | ⟨-, isOpen, e⟩ | ⟨-, isOpen, e⟩ := execBlock_cases n s <;>
      rw [e] at he <;> cases he
    · simp [many]
    · simp [count, closed]
    · simp [isOpen]
    · simp [isOpen]

/-- Settles O35: by what the command does to READY. -/
theorem streamsOpenAndClose : Obligations.StreamsOpenAndClose := by
  unfold Obligations.StreamsOpenAndClose
  intro i s t he isInit
  have state := exec_err_state_iff he
  obtain ⟨init, ⟨ok, opened⟩ | ⟨code, closed⟩⟩ | ⟨notInit, codes, ⟨closing, closed⟩ | ⟨other, kept⟩⟩ :=
    exec_ready_cases he
  · have notClosing : i ≠ .final ∧ i ≠ .zeroize := by obtain ⟨_, _, _, _, _, _, rfl⟩ := init; simp
    exact ⟨fun _ _ => ⟨init, ok⟩, by simp [opened], fun _ _ => opened, by simp [notClosing, ok], state⟩
  · have notOk : t.err ≠ .ok := by rintro ok; simp [ok] at code
    exact ⟨by simp [closed], fun _ _ => .inr (.inr ⟨init, code⟩), fun _ ok => absurd ok notOk, fun _ => closed, state⟩
  · exact ⟨by simp [closed], fun _ _ => closing.imp_right .inl, fun init => absurd init notInit, fun _ => closed, state⟩
  · refine ⟨?_, ?_, fun init => absurd init notInit, by simp [other, codes], state⟩ <;>
      · intro before after
        rw [kept, before] at after
        cases after

/-! INIT depends on its operands alone (41_init.md R142, R144) -/

/-- Keys that agree in their first KLEN bytes are the same key. -/
theorem loadKey_congr {key key' : KeyBytes} {nk : Nat} (same : key.toList.take (4 * nk) = key'.toList.take (4 * nk)) :
    loadKey key nk = loadKey key' nk := by
  have byte (i : Nat) (hi : i < 4 * nk) : key[i]?.getD 0 = key'[i]?.getD 0 := by
    have entry := congrArg (·[i]?) same
    simp only [List.getElem?_take, if_pos hi] at entry
    simpa using congrArg (·.getD 0) entry
  ext i hi : 1
  simp only [loadKey, Vector.getElem_ofFn]
  split
  next inKey => simp only [packWord, byte _ (show 4 * i < 4 * nk by omega), byte _ (show 4 * i + 1 < 4 * nk by omega),
    byte _ (show 4 * i + 2 < 4 * nk by omega), byte _ (show 4 * i + 3 < 4 * nk by omega)]
  next => rfl

theorem keyExpansion_congr {key key' : KeyBytes} {klen : Nat}
    (same : key.toList.take klen = key'.toList.take klen) (whole : 4 * keyWords klen = klen) :
    keyExpansion key klen = keyExpansion key' klen := by
  have loaded := loadKey_congr (key := key) (key' := key') (nk := keyWords klen) (by rw [whole, same])
  rw [keyExpansion, keyExpansion, loaded]

theorem four_mul_keyWords_of_legal {klen : BitVec 6} (legal : keyLenLegal klen = true) :
    4 * keyWords klen.toNat = klen.toNat := by
  rcases (keyLenLegal_iff klen).mp legal with e | e | e <;> rw [e] <;> rfl

/-- INIT's checks look at no other element than KEYED, and at that only with LK = 0. -/
theorem initError_congr {s t : State} (mode : Mode) (lk li : Bool) (klen : BitVec 6) (ivlen : BitVec 5)
    (same : lk = false → s.keyed = t.keyed) :
    initError s mode lk li klen ivlen = initError t mode lk li klen ivlen := by
  cases lk with
  | true => rfl
  | false => rw [initError, initError, same rfl]

/-- A successful INIT is the only way INIT leaves READY at 1. -/
theorem initError_of_ready {s s' : State} {mode : Mode} {dir lk li : Bool} {klen : BitVec 6} {ivlen : BitVec 5}
    (he : exec (.init mode dir lk li klen ivlen) s = .next s') (ready : s'.ready = true) :
    initError s mode lk li klen ivlen = none := by
  cases checked : initError s mode lk li klen ivlen with
  | none => rfl
  | some code =>
    rw [exec_init_of_initError dir checked] at he
    cases he
    cases ready

theorem exec_init_passed {s : State} {mode : Mode} (dir : Bool) {lk li : Bool} {klen : BitVec 6} {ivlen : BitVec 5}
    (passed : initError s mode lk li klen ivlen = none) :
    exec (.init mode dir lk li klen ivlen) s = .next (s.initialised mode dir lk li klen) := by
  rw [exec_init, execInit, passed]
  rfl

/-- Settles O49: the checks pass in both states, and each element of the new streams comes from an operand. -/
theorem reinitForgetsTheEarlierStream : Obligations.ReinitForgetsTheEarlierStream := by
  unfold Obligations.ReinitForgetsTheEarlierStream
  intro s t s' t' mode dir lk li klen ivlen key schedule iv ivcfg hs ht ready
  have passed := initError_of_ready hs ready
  have passed' := (initError_congr mode lk li klen ivlen fun h => (schedule h).2.2).symm.trans passed
  obtain ⟨keyLen, -, -, -⟩ := (initError_none_iff s mode lk li klen ivlen).mp passed
  rw [exec_init_passed dir passed] at hs
  rw [exec_init_passed dir passed'] at ht
  cases hs
  cases ht
  have loaded : (if lk then (keyExpansion s.keyIn klen.toNat).1 else s.w) =
        (if lk then (keyExpansion t.keyIn klen.toNat).1 else t.w) ∧
      (if lk then (keyExpansion s.keyIn klen.toNat).2 else s.nr) =
        (if lk then (keyExpansion t.keyIn klen.toNat).2 else t.nr) ∧ (lk || s.keyed) = (lk || t.keyed) := by
    cases lk with
    | true => simp [keyExpansion_congr (key rfl) (four_mul_keyWords_of_legal (keyLen rfl))]
    | false => simpa using schedule rfl
  have chosen : (if li then s.ivIn else s.ivcfg) = if li then t.ivIn else t.ivcfg := by
    cases li with
    | true => exact iv rfl
    | false => exact ivcfg rfl
  simp [SameStream, State.initialised, loaded, chosen]

/-! ZEROIZE (44_control.md R191) -/

theorem exec_zeroize (s : State) : exec .zeroize s = .next (s.clearElements.complete .ok []) := rfl

/-- Settles O51: ZEROIZE has no fields, so its opcode is its whole word, and cleared and completed a state is the reset
state under the model's own fields. -/
theorem zeroizeReturnsToReset : Obligations.ZeroizeReturnsToReset := by
  unfold Obligations.ZeroizeReturnsToReset
  refine ⟨decodeWord_eq_iff_of_fieldless (.inr (.inr rfl)), fun s => ⟨_, exec_zeroize s, ?_, reset_statusWord⟩⟩
  rw [complete_noOutput]
  rfl

end Sys2Proof.Machine
end

section
/-! PROOFS. A step, the bus and the busy protocol: the command in flight (10_state.md R28), the accesses while BUSY = 0
and while BUSY = 1 (20_memory.md R51 to R60), reset (70_reset_and_hazards.md R230), the invariants at reset and the key
schedule (10_state.md R30, R40), and which accesses reach a placed core (60_exceptions.md R210, R212). -/

namespace Sys2Proof.Machine

/-! What a step can come to -/

/-- A read returns a word and may draw and count down, or it completes the command in flight. -/
theorem busRead_cases {s t : State} {off : Offset} {size : Nat} (h : busRead s off size = .next t) :
    (∃ v f d, t = { s with rdata := v, inflight := f, draws := d }) ∨
    ∃ c n u, s.inflight = some ⟨c, n⟩ ∧ exec (decodeWord c) s = .next u ∧ t = { u with rdata := u.statusWord } := by
  unfold busRead at h
  split at h
  next =>
    unfold idleRead at h
    split at h <;> cases h
    exact .inl ⟨_, _, _, rfl⟩
  next f inflight =>
    split at h
    · unfold busyStatusRead at h
      split at h
      · obtain ⟨u, he, rfl⟩ := mapNext_eq_next h
        exact .inr ⟨f.word, f.wait, u, inflight, he, rfl⟩
      · cases h
        exact .inl ⟨_, _, _, rfl⟩
    · cases h

theorem busWrite_eq_next {s t : State} {off : Offset} {size : Nat} {v : Word} (h : busWrite s off size v = .next t) :
    ∃ r, regOfAccess off size = some r ∧ t = s.writeReg r v := by
  unfold busWrite at h
  split at h
  · cases h
  · split at h <;> cases h
    exact ⟨_, ‹_›, rfl⟩

/-- A poll's read is a STATUS read, after which the poll may be put back. -/
theorem pollOnce_eq_next {s t : State} {rest : List HostOp} (h : pollOnce s rest = .next t) :
    ∃ u ops, busRead { s with host := rest } (regOffset .status) 4 = .next u ∧ t = { u with host := ops } := by
  obtain ⟨u, read, rfl⟩ := mapNext_eq_next h
  split
  · exact ⟨u, .poll :: rest, read, rfl⟩
  · exact ⟨u, u.host, read, rfl⟩

/-- A step is a read, a register write, the completion of the command in flight, the reset event, or nothing. -/
theorem step_cases {s t : State} (h : step s = .next t) :
    (∃ ops v f d, t = { s with host := ops, rdata := v, inflight := f, draws := d }) ∨
    (∃ ops r v, t = { s with host := ops }.writeReg r v) ∨
    (∃ c n rest u ops, s.inflight = some ⟨c, n⟩ ∧ exec (decodeWord c) { s with host := rest } = .next u ∧
      t = { u with host := ops, rdata := u.statusWord }) ∨
    ∃ ops, t = { s.applyReset with host := ops } := by
  unfold step hostStep at h
  split at h
  case h_1 => cases h; exact .inl ⟨s.host, s.rdata, s.inflight, s.draws, rfl⟩
  case h_2 off size rest _ =>
    obtain ⟨v, f, d, rfl⟩ | ⟨c, n, u, inflight, he, rfl⟩ := busRead_cases h
    · exact .inl ⟨rest, v, f, d, rfl⟩
    · exact .inr (.inr (.inl ⟨c, n, rest, u, u.host, inflight, he, rfl⟩))
  case h_3 off size v rest _ =>
    obtain ⟨r, -, rfl⟩ := busWrite_eq_next h
    exact .inr (.inl ⟨rest, r, v, rfl⟩)
  case h_4 rest _ =>
    obtain ⟨_, ops, read, rfl⟩ := pollOnce_eq_next h
    obtain ⟨v, f, d, rfl⟩ | ⟨c, n, u, inflight, he, rfl⟩ := busRead_cases read
    · exact .inl ⟨ops, v, f, d, rfl⟩
    · exact .inr (.inr (.inl ⟨c, n, rest, u, ops, inflight, he, rfl⟩))
  case h_5 rest _ => cases h; exact .inr (.inr (.inr ⟨rest, rfl⟩))

/-- Whether a schedule is held is a matter of W, NR and KEYED. -/
theorem holdsSchedule_congr {s t : State} (h : HoldsSchedule s) (same : t.w = s.w ∧ t.nr = s.nr ∧ t.keyed = s.keyed) :
    HoldsSchedule t := by
  obtain ⟨w, nr, keyed⟩ := same
  rwa [HoldsSchedule, w, nr, keyed]

theorem writeReg_schedule (s : State) (r : Reg) (v : Word) :
    (s.writeReg r v).w = s.w ∧ (s.writeReg r v).nr = s.nr ∧ (s.writeReg r v).keyed = s.keyed := by
  cases r <;> simp [State.writeReg]

/-- Settles O54: of what a step can come to, a completed command and reset touch the schedule, and both keep it. -/
theorem stepKeepsKeySchedule : Obligations.StepKeepsKeySchedule := by
  unfold Obligations.StepKeepsKeySchedule
  intro s t h hstep
  obtain ⟨ops, v, f, d, rfl⟩ | ⟨ops, r, v, rfl⟩ | ⟨c, n, rest, u, ops, -, he, rfl⟩ | ⟨ops, rfl⟩ := step_cases hstep
  · exact holdsSchedule_congr h ⟨rfl, rfl, rfl⟩
  · exact holdsSchedule_congr h (writeReg_schedule { s with host := ops } r v)
  · have before : HoldsSchedule { s with host := rest } := holdsSchedule_congr h ⟨rfl, rfl, rfl⟩
    exact holdsSchedule_congr (exec_keeps_holdsSchedule before he) ⟨rfl, rfl, rfl⟩
  · exact .inr ⟨rfl, rfl, rfl⟩

/-- Settles O52: the state after reset is a cleared one, with no key. -/
theorem invariantsAtReset : Obligations.InvariantsAtReset := by
  unfold Obligations.InvariantsAtReset
  exact ⟨stateInv_clearElements State.reset, .inr ⟨rfl, rfl, rfl⟩⟩

/-- Settles O21: reset is an event of the host's list, and it looks at nothing in the state. -/
theorem resetReplacesTheWholeRecord : Obligations.ResetReplacesTheWholeRecord := by
  unfold Obligations.ResetReplacesTheWholeRecord
  intro s rest hhost
  have event : hostStep s = .next { s.applyReset with host := rest } := by rw [hostStep, hhost]
  exact event

/-! A command in flight (10_state.md R28) -/

theorem step_rd {s : State} {off : Offset} {size : Nat} {rest : List HostOp} (hhost : s.host = .rd off size :: rest) :
    step s = busRead { s with host := rest } off size := by
  rw [step, hostStep, hhost]

theorem step_wr {s : State} {off : Offset} {size : Nat} {v : Word} {rest : List HostOp}
    (hhost : s.host = .wr off size v :: rest) : step s = busWrite { s with host := rest } off size v := by
  rw [step, hostStep, hhost]

theorem step_poll {s : State} {rest : List HostOp} (hhost : s.host = .poll :: rest) : step s = pollOnce s rest := by
  rw [step, hostStep, hhost]

/-- A STATUS read of a command that is due completes it. -/
theorem busRead_status_due {s t : State} {c : Word} (due : s.inflight = some ⟨c, 0⟩)
    (he : exec (decodeWord c) s = .next t) :
    busRead s (regOffset .status) 4 = .next { t with rdata := t.statusWord } := by
  rw [busRead_status s _ due, busyStatusRead, if_pos rfl, completeCommand, he, mapNext_next]

/-- A STATUS read of a command that is not due leaves it executing. -/
theorem busRead_status_waiting {s : State} {c : Word} {n : Nat} (waiting : s.inflight = some ⟨c, n + 1⟩) :
    busRead s (regOffset .status) 4 = .next (s.stillExecuting ⟨c, n + 1⟩) := by
  rw [busRead_status s _ waiting, busyStatusRead, if_neg (Nat.succ_ne_zero n)]

theorem busyStatusWord_busy (drawn : Word) : (busyStatusWord drawn).getLsbD 0 = true := by
  simp [busyStatusWord]

/-- STATUS after a command shows BUSY = 0. -/
theorem statusWord_not_busy_of_exec {i : Instr} {s t : State} (he : exec i s = .next t) :
    t.statusWord.getLsbD 0 = false := by
  rw [(statusWord_flags t).1, State.busy, exec_inflight he]
  rfl

/-- A poll ends with the read that completes the command. -/
theorem pollOnce_due {s t : State} {c : Word} {rest : List HostOp} (due : s.inflight = some ⟨c, 0⟩)
    (he : exec (decodeWord c) { s with host := rest } = .next t) :
    pollOnce s rest = .next { t with rdata := t.statusWord } := by
  have read := busRead_status_due (s := { s with host := rest }) due he
  rw [pollOnce, read, mapNext_next, if_neg (by rw [statusWord_not_busy_of_exec he]; exact Bool.false_ne_true)]

/-- A poll goes on after a read that finds the command executing. -/
theorem pollOnce_waiting {s : State} {c : Word} {n : Nat} (rest : List HostOp)
    (waiting : s.inflight = some ⟨c, n + 1⟩) :
    ∃ v d, pollOnce s rest =
      .next { s with inflight := some ⟨c, n⟩, host := .poll :: rest, rdata := v, draws := d } := by
  have read := busRead_status_waiting (s := { s with host := rest }) waiting
  have busy : ({ s with host := rest }.stillExecuting ⟨c, n + 1⟩).rdata.getLsbD 0 = true := busyStatusWord_busy _
  rw [pollOnce, read, mapNext_next, if_pos busy]
  exact ⟨_, _, rfl⟩

/-- Settles O8: the read finds the command due, alone or as a poll's. -/
theorem stepRunsTheCommandInFlight : Obligations.StepRunsTheCommandInFlight := by
  unfold Obligations.StepRunsTheCommandInFlight
  intro s t c rest due hhost he
  obtain hhost | hhost := hhost
  · rw [step_rd hhost]
    exact busRead_status_due (s := { s with host := rest }) due he
  · rw [step_poll hhost]
    exact pollOnce_due due he

/-- Settles O10: CMD is the register at 0x04, and a write to it issues the word. -/
theorem cmdWriteIssuesOneCommand : Obligations.CmdWriteIssuesOneCommand := by
  unfold Obligations.CmdWriteIssuesOneCommand
  intro s v rest idle hhost
  have written := step_idle_write s 0x04 4 v rest .cmd idle (regOfAccess_regOffset .cmd)
  rw [← hhost] at written
  exact ⟨_, _, written⟩

/-- Settles O11: such a read counts the wait down, draws a word, and sets the bit BUSY in it. -/
theorem statusReadWhileExecuting : Obligations.StatusReadWhileExecuting := by
  unfold Obligations.StatusReadWhileExecuting
  intro s c n rest waiting hhost
  rw [step_rd hhost]
  exact ⟨_, _, busyStatusWord_busy _, busRead_status_waiting (s := { s with host := rest }) waiting⟩

/-- No command reads whether it is in flight. -/
theorem exec_withInflight (i : Instr) (s : State) (f : Option InFlight) :
    exec i { s with inflight := f } = exec i s := by
  cases i with
  | nop | zeroize | reserved => rfl
  | init mode dir lk li klen ivlen =>
    have checks : initError { s with inflight := f } mode lk li klen ivlen = initError s mode lk li klen ivlen := rfl
    rw [exec_init, exec_init, execInit, execInit, checks]
    split
    · rfl
    · cases lk <;> cases li <;> rfl
  | update n =>
    have din : ({ s with inflight := f } : State).dinBytes n = s.dinBytes n := rfl
    have loop : absorb { s with inflight := f } (s.dinBytes n) =
        ((absorb s (s.dinBytes n)).1.overlay s.din s.dout s.err s.outlen f, (absorb s (s.dinBytes n)).2) :=
      absorb_overlay (s.dinBytes n) s s.din s.dout s.err s.outlen f
    obtain ⟨fb, acc, fill, frame⟩ := absorb_frame (s.dinBytes n) s
    simp only [exec, execUpdate, din, loop, frame]
    rfl
  | final => rfl
  | block n => rfl

/-- A command that has waited does what it would have done at once. -/
theorem exec_of_waiting {i : Instr} {s u : State} (he : exec i s = .next u) (f : Option InFlight) (ops : List HostOp)
    (v : Word) (d : Nat) :
    exec i { s with inflight := f, host := ops, rdata := v, draws := d } =
      .next { u with host := ops, rdata := v, draws := d } := by
  have atOnce : exec i { s with inflight := f } = .next u := (exec_withInflight i s f).trans he
  have waited := exec_modelFields i { s with inflight := f } ops v d
  rw [atOnce] at waited
  exact waited

/-- A run goes on from the state its first step comes to. -/
theorem run_succ_of_step {M : Host.Core} {s t : M.State} (k : Nat) (h : M.step s = .next t) :
    M.run (k + 1) s = M.run k t := by
  rw [Host.Core.run, h]

/-- Settles O12: by induction on the reads that find the command executing; each leaves the poll in the host's list and
the command's effects to come. -/
theorem pollEndsWithTheCommandCompleted : Obligations.PollEndsWithTheCommandCompleted := by
  unfold Obligations.PollEndsWithTheCommandCompleted
  intro s u c n rest waiting hhost he
  induction n generalizing s u with
  | zero =>
    have ended := pollOnce_due waiting (exec_of_waiting he s.inflight rest s.rdata s.draws)
    rw [← step_poll hhost] at ended
    exact ⟨s.draws, run_succ_of_step (M := Sys2Proof.core) 0 ended⟩
  | succ n ih =>
    obtain ⟨v, d, goesOn⟩ := pollOnce_waiting rest waiting
    rw [← step_poll hhost] at goesOn
    rw [run_succ_of_step (M := Sys2Proof.core) (n + 1) goesOn]
    obtain ⟨d', ended⟩ := ih _ _ rfl rfl (exec_of_waiting he _ _ v d)
    exact ⟨d', ended⟩

/-! Accesses while BUSY = 0 (20_memory.md R51 to R57) -/

theorem inflight_of_idle {s : State} (idle : s.busy = false) : s.inflight = none := by
  simpa [State.busy] using idle

/-- The accesses that reach no register are those of the wrong width, misaligned or at a reserved offset. -/
theorem regOfAccess_eq_none_iff (off : Offset) (size : Nat) :
    regOfAccess off size = none ↔
      size ≠ 4 ∨ off.toNat % 4 ≠ 0 ∨ off.toNat ∈ [0x18, 0x1C, 0x70, 0x74, 0x78, 0x7C] := by
  by_cases width : size = 4
  · subst width
    revert off
    decide
  · simp [regOfAccess, width]

theorem step_idle_read_unmapped (s : State) {off : Offset} {size : Nat} (rest : List HostOp) (idle : s.busy = false)
    (unmapped : regOfAccess off size = none) :
    step { s with host := .rd off size :: rest } = .fault (.busError off) := by
  have read := busRead_idle { s with host := rest } off size (inflight_of_idle idle)
  rw [step_rd rfl, read, idleRead, unmapped]

theorem step_idle_write_unmapped (s : State) {off : Offset} {size : Nat} (v : Word) (rest : List HostOp)
    (idle : s.busy = false) (unmapped : regOfAccess off size = none) :
    step { s with host := .wr off size v :: rest } = .fault (.busError off) := by
  have notBusy : ¬({ s with host := rest } : State).busy = true := by simpa [State.busy] using idle
  rw [step_wr rfl, busWrite, if_neg notBusy, unmapped]

/-- Settles O13: the illegal accesses are those that reach no register. -/
theorem busErrorExactlyOnIllegalAccesses : Obligations.BusErrorExactlyOnIllegalAccesses := by
  unfold Obligations.BusErrorExactlyOnIllegalAccesses
  intro s off size v rest idle
  rw [← regOfAccess_eq_none_iff]
  refine ⟨fun unmapped => ⟨step_idle_read_unmapped s rest idle unmapped,
    step_idle_write_unmapped s v rest idle unmapped⟩, fun mapped => ?_⟩
  obtain ⟨r, reached⟩ := Option.ne_none_iff_exists'.mp mapped
  exact ⟨⟨_, step_idle_read s off size rest r idle reached⟩, ⟨_, step_idle_write s off size v rest r idle reached⟩⟩

/-- A register read at its own offset returns its word and changes nothing else. -/
theorem step_idle_read_reg (s : State) (rest : List HostOp) (r : Reg) (idle : s.busy = false) :
    step { s with host := .rd (regOffset r) 4 :: rest } = .next { s with host := rest, rdata := s.readReg r } := by
  have read := step_idle_read s (regOffset r) 4 rest r idle (regOfAccess_regOffset r)
  cases r <;> exact read

/-- A register written at its own offset does with the data what its kind says. -/
theorem step_idle_write_reg (s : State) (v : Word) (rest : List HostOp) (r : Reg) (idle : s.busy = false) :
    step { s with host := .wr (regOffset r) 4 v :: rest } = .next ({ s with host := rest }.writeReg r v) :=
  step_idle_write s (regOffset r) 4 v rest r idle (regOfAccess_regOffset r)

/-- Settles O15: the registers stand at the offsets named, and each reads as named. -/
theorem idleReadsHaveNoSideEffect : Obligations.IdleReadsHaveNoSideEffect := by
  unfold Obligations.IdleReadsHaveNoSideEffect
  intro s rest idle
  have read (r : Reg) := step_idle_read_reg s rest r idle
  exact ⟨read .id, read .cmd, read .status, read .qlen, fun k => read (.key k),
    fun k => ⟨read (.iv k), read (.din k), read (.dout k)⟩⟩

/-- Settles O18: the operand registers stand at the offsets named, and each stores what is written. -/
theorem operandWritesStoreTheirData : Obligations.OperandWritesStoreTheirData := by
  unfold Obligations.OperandWritesStoreTheirData
  intro s v rest idle
  have write (r : Reg) := step_idle_write_reg s v rest r idle
  exact ⟨write .qlen, fun k => write (.key k), fun k => ⟨write (.iv k), write (.din k)⟩⟩

/-! The size registers (43_stream.md R175, R176) -/

/-- QLEN has 31 bits and FILL is below 16, so the sum fits 32 bits. -/
theorem osize_toNat (s : State) : s.osize.toNat = s.qlen.toNat + s.fill.val := by
  have := s.qlen.isLt
  have := s.fill.isLt
  rw [State.osize, BitVec.toNat_ofNat]
  omega

theorem usize_toNat (s : State) : s.usize.toNat = (s.qlen.toNat + s.fill.val) / 16 * 16 := by
  have := s.qlen.isLt
  have := s.fill.isLt
  rw [State.usize, BitVec.toNat_ofNat]
  omega

/-- Settles O19: the two registers read as the size functions, which do not wrap. -/
theorem sizeRegistersAreExact : Obligations.SizeRegistersAreExact := by
  unfold Obligations.SizeRegistersAreExact
  intro s rest idle
  have := s.qlen.isLt
  have := s.fill.isLt
  exact ⟨s.osize, s.usize, step_idle_read_reg s rest .osize idle, step_idle_read_reg s rest .usize idle, osize_toNat s,
    by rw [osize_toNat]; omega, usize_toNat s⟩

/-! Accesses while BUSY = 1 (20_memory.md R60) -/

/-- Only a 4-byte access at 0x08 is a STATUS read. -/
theorem isStatusRead_iff (off : Offset) (size : Nat) : isStatusRead off size = true ↔ off = 0x08 ∧ size = 4 := by
  rw [isStatusRead, beq_iff_eq]
  constructor
  · intro reached
    obtain ⟨width, offset⟩ := regOfAccess_eq_some reached
    exact ⟨offset, width⟩
  · rintro ⟨rfl, rfl⟩
    exact regOfAccess_regOffset .status

/-- A STATUS read while BUSY = 1 always answers: every command completes. -/
theorem busyStatusRead_completes (s : State) (f : InFlight) : ∃ t, busyStatusRead s f = .next t := by
  obtain ⟨t, he⟩ := exec_completes (decodeWord f.word) s
  by_cases due : f.wait = 0
  · exact ⟨_, by rw [busyStatusRead, if_pos due, completeCommand, he, mapNext_next]⟩
  · exact ⟨_, by rw [busyStatusRead, if_neg due]⟩

/-- Settles O14: while a command is in flight, writes are refused, and so are reads other than STATUS's. -/
theorem busyViolationExactlyOffStatus : Obligations.BusyViolationExactlyOffStatus := by
  unfold Obligations.BusyViolationExactlyOffStatus
  intro s off size v rest busy
  obtain ⟨f, inflight⟩ := Option.isSome_iff_exists.mp busy
  have status := busRead_status { s with host := rest } f inflight
  refine ⟨?_, fun other => ?_, ?_⟩
  · have stillBusy : ({ s with host := rest } : State).busy = true := busy
    rw [step_wr rfl, busWrite, if_pos stillBusy]
  · rw [← isStatusRead_iff] at other
    rw [step_rd rfl]
    simp only [busRead, inflight, if_neg other]
  · obtain ⟨t, answered⟩ := busyStatusRead_completes { s with host := rest } f
    exact ⟨t, (step_rd rfl).trans (status.trans answered)⟩

/-! Byte packing (20_memory.md R55) -/

theorem storeWord_getD {n : Nat} (b : Vector Byte n) {k : Nat} (v : Word) (inArray : 4 * k + 3 < n) (i : Nat) :
    (storeWord b k v)[i]?.getD 0 = if i / 4 = k then v.extractLsb' (24 - 8 * (i % 4)) 8 else b[i]?.getD 0 := by
  by_cases hi : i < n
  · simp [hi, storeWord_get]
  · rw [if_neg (by omega)]
    simp [hi]

/-- A word is determined by its four bytes. -/
theorem word_ext_bytes {v w : Word}
    (h : ∀ j : Fin 4, v.extractLsb' (24 - 8 * j.val) 8 = w.extractLsb' (24 - 8 * j.val) 8) : v = w := by
  refine BitVec.eq_of_getLsbD_eq fun i hi => ?_
  have byte := congrArg (·.getLsbD (i % 8)) (h ⟨3 - i / 8, by omega⟩)
  have position : 24 - 8 * (3 - i / 8) + i % 8 = i := by omega
  simpa [BitVec.getLsbD_extractLsb', Nat.mod_lt, position] using byte

/-- Settles O17: a packed word has the four bytes in order, and a stored word is read back byte by byte. -/
theorem bytePackingIsBigEndian : Obligations.BytePackingIsBigEndian := by
  unfold Obligations.BytePackingIsBigEndian
  intro n b k v inArray
  refine ⟨packWord_extractLsb' b k, storeWord_getD b v inArray, word_ext_bytes fun j => ?_⟩
  have word : (4 * k + j.val) / 4 = k := by omega
  have byte : (4 * k + j.val) % 4 = j.val := by omega
  rw [packWord_extractLsb', storeWord_getD b v inArray, if_pos word, byte]

/-! What the window hides, and which core an access reaches (60_exceptions.md R210, R212) -/

theorem readReg_congr {s t : State} (same : SameVisible s t) (r : Reg) : s.readReg r = t.readReg r := by
  obtain ⟨ivIn, din, dout, qlen, nr, keyed, mode, dir, ready, fill, err, outlen, inflight⟩ := same
  cases r with
  | id | cmd | key => rfl
  | status => simp only [State.readReg, State.statusWord, State.busy, nr, outlen, fill, err, mode, dir, keyed, ready,
      inflight]
  | qlen => simp only [State.readReg, qlen]
  | osize => simp only [State.readReg, State.osize, qlen, fill]
  | usize => simp only [State.readReg, State.usize, qlen, fill]
  | iv k => simp only [State.readReg, ivIn]
  | din k => simp only [State.readReg, din]
  | dout k => simp only [State.readReg, dout]

/-- Settles O59: no register reads a hidden element, and whether an access is legal does not depend on the state. -/
theorem windowHidesSecrets : Obligations.WindowHidesSecrets := by
  unfold Obligations.WindowHidesSecrets
  intro s t same
  refine ⟨readReg_congr same, fun idle off size rest => ?_⟩
  have idle' : t.busy = false := by
    obtain ⟨-, -, -, -, -, -, -, -, -, -, -, -, inflight⟩ := same
    rwa [State.busy, ← inflight]
  cases reached : regOfAccess off size with
  | none => exact .inr ⟨step_idle_read_unmapped s rest idle reached, step_idle_read_unmapped t rest idle' reached⟩
  | some r =>
    obtain ⟨rfl, rfl⟩ := regOfAccess_eq_some reached
    refine .inl ⟨s.readReg r, step_idle_read_reg s rest r idle, ?_⟩
    rw [readReg_congr same]
    exact step_idle_read_reg t rest r idle'

/-- An access in the window reaches the core at the address's offset (20_memory.md R50). -/
theorem receive_inside (p : Placed) (addr : Nat) (op : Offset → HostOp)
    (inside : p.base ≤ addr ∧ addr < p.base + Config.windowBytes) :
    p.receive addr op =
      { p with state := { p.state with host := p.state.host ++ [op (BitVec.ofNat 7 (addr - p.base))] } } := by
  rw [Placed.receive, windowOffset, if_pos inside]

theorem receive_outside (p : Placed) (addr : Nat) (op : Offset → HostOp)
    (outside : ¬(p.base ≤ addr ∧ addr < p.base + Config.windowBytes)) : p.receive addr op = p := by
  rw [Placed.receive, windowOffset, if_neg outside]

/-- Settles O60: the address lies in the first window, at an offset below 128, and not in the second. -/
theorem instancesAreIndependent : Obligations.InstancesAreIndependent := by
  unfold Obligations.InstancesAreIndependent
  intro p q addr size v above below disjoint
  have inside : p.base ≤ addr ∧ addr < p.base + Config.windowBytes := ⟨above, below⟩
  have outside : ¬(q.base ≤ addr ∧ addr < q.base + Config.windowBytes) := by
    simp only [Config.windowBytes]
    omega
  refine ⟨BitVec.ofNat 7 (addr - p.base), ?_, ?_, ?_⟩
  · rw [BitVec.toNat_ofNat]
    omega
  · simp only [issueRead, List.map, receive_inside p addr _ inside, receive_outside q addr _ outside]
  · simp only [issueWrite, List.map, receive_inside p addr _ inside, receive_outside q addr _ outside]

end Sys2Proof.Machine
end

section
/-! PROOFS. The engine: xtime (40_aes_engine.md R102), and that the cipher and the inverse cipher undo each other
(R120). -/

namespace Sys2Proof.Machine

/-! xtime (40_aes_engine.md R102) -/

theorem xtime_xor (a b : Byte) : xtime (a ^^^ b) = xtime a ^^^ xtime b := by
  have both (x y z : Byte) : x ^^^ y = x ^^^ z ^^^ (y ^^^ z) := by
    rw [BitVec.xor_comm y z, ← BitVec.xor_assoc, BitVec.xor_assoc x z z, BitVec.xor_self, BitVec.xor_zero]
  simp only [xtime, BitVec.shiftLeft_xor_distrib, BitVec.getLsbD_xor]
  cases a.getLsbD 7 <;> cases b.getLsbD 7
  · simp
  · simp [BitVec.xor_assoc]
  · simp; ac_rfl
  · simpa using both (a <<< 1) (b <<< 1) 0x1B

/-- Both sides are linear in the byte, so its single bits decide. -/
theorem gfMul_two (b : Byte) : gfMul 0x02 b = xtime b := by
  induction b using byte_xor_induction with
  | bit i => revert i; decide
  | xor a b ha hb => rw [gfMul_xor, xtime_xor, ha, hb]

/-- Settles O23: {03} is {02} + {01}, and {0E} is {08} + {04} + {02}, the powers of {02}. -/
theorem xtimeIsMultiplicationByTwo : Obligations.XtimeIsMultiplicationByTwo := by
  unfold Obligations.XtimeIsMultiplicationByTwo
  intro b
  have three : (0x03 : Byte) = 0x02 ^^^ 0x01 := by decide
  have four : gfMul 0x02 0x02 = 0x04 := gfMul_two 0x02
  have eight : gfMul 0x02 0x04 = 0x08 := gfMul_two 0x04
  have fourteen : (0x0E : Byte) = 0x08 ^^^ 0x04 ^^^ 0x02 := by decide
  refine ⟨gfMul_two b, ?_, ?_⟩
  · rw [three, gfMul_xor_left, gfMul_two]
    exact congrArg (xtime b ^^^ ·) (gfMul_one_left b)
  · rw [fourteen, gfMul_xor_left, gfMul_xor_left, ← eight, ← four, gfMul_assoc, gfMul_assoc]
    simp only [gfMul_two]

/-! The steps of a round and their inverses (40_aes_engine.md R114, R115) -/

@[simp] theorem invSubBytes_subBytes (s : Block) : invSubBytes (subBytes s) = s := by
  ext k hk : 1
  simp [invSubBytes, subBytes]

@[simp] theorem subBytes_invSubBytes (s : Block) : subBytes (invSubBytes s) = s := by
  ext k hk : 1
  simp [invSubBytes, subBytes]

/-- The index multiplied by 5 and by 13 is multiplied by 65, which is 1 mod 16. -/
@[simp] theorem invShiftRows_shiftRows (s : Block) : invShiftRows (shiftRows s) = s := by
  ext k hk : 1
  have index : 5 * (13 * k % 16) % 16 = k := by omega
  simp only [invShiftRows_getElem _ k hk, shiftRows_getElem s _ (Nat.mod_lt _ (by decide)), index]

@[simp] theorem shiftRows_invShiftRows (s : Block) : shiftRows (invShiftRows s) = s := by
  ext k hk : 1
  have index : 13 * (5 * k % 16) % 16 = k := by omega
  simp only [shiftRows_getElem _ k hk, invShiftRows_getElem s _ (Nat.mod_lt _ (by decide)), index]

/-! The rounds (40_aes_engine.md R119, R120) -/

/-- The last of `k + 1` rounds, which the inverse cipher undoes first. -/
theorem encryptRounds_succ (w : Schedule) (k r : Nat) (s : Block) :
    encryptRounds w (k + 1) r s =
      addRoundKey w (mixColumns (shiftRows (subBytes (encryptRounds w k r s)))) (r + k) := by
  induction k generalizing r s with
  | zero => rfl
  | succ k ih => rw [encryptRounds, ih, encryptRounds, Nat.add_assoc, Nat.add_comm 1]

/-- Between the two last round keys, full rounds of the inverse cipher undo those of the cipher. -/
theorem decryptRounds_encryptRounds (w : Schedule) (n : Nat) (s : Block) :
    decryptRounds w n (shiftRows (subBytes (encryptRounds w n 1 s))) = shiftRows (subBytes s) := by
  induction n with
  | zero => rfl
  | succ k ih =>
    rw [decryptRounds, invShiftRows_shiftRows, invSubBytes_subBytes, encryptRounds_succ, Nat.add_comm 1,
      addRoundKey_twice, invMixColumns_mixColumns, ih]

/-- And full rounds of the cipher undo those of the inverse cipher. -/
theorem encryptRounds_decryptRounds (w : Schedule) (n : Nat) (s : Block) :
    encryptRounds w n 1 (invSubBytes (invShiftRows (decryptRounds w n s))) = invSubBytes (invShiftRows s) := by
  induction n generalizing s with
  | zero => rfl
  | succ k ih =>
    rw [decryptRounds, encryptRounds_succ, ih, subBytes_invSubBytes, shiftRows_invShiftRows, mixColumns_invMixColumns,
      Nat.add_comm 1, addRoundKey_twice]

@[simp] theorem aesD_aesE (w : Schedule) (nr : Rounds) (x : Block) : aesD w nr (aesE w nr x) = x := by
  simp [aesD, aesE, decryptRounds_encryptRounds]

@[simp] theorem aesE_aesD (w : Schedule) (nr : Rounds) (x : Block) : aesE w nr (aesD w nr x) = x := by
  simp [aesD, aesE, encryptRounds_decryptRounds]

/-- Settles O31: round by round from the outside in, each step next to its inverse. -/
theorem inverseCipherUndoesCipher : Obligations.InverseCipherUndoesCipher := by
  unfold Obligations.InverseCipherUndoesCipher
  exact fun w nr x => ⟨aesD_aesE w nr x, aesE_aesD w nr x⟩

end Sys2Proof.Machine
end

section
/-! PROOFS. The laws of the modes on whole blocks (42_modes.md R162 items 1 and 3 to 5, at the block primitive). -/

namespace Sys2Proof.Machine

/-! Block streams as a function of the feedback value -/

/-- The output blocks of a mode on input blocks, from a feedback value on. -/
def chainBlocks (mode : Mode) (dir : Bool) (enc dec : Block → Block) (fb : Block) (xs : List Block) : List Block :=
  match xs with
  | [] => []
  | x :: rest =>
    (chainBlock mode dir enc dec fb x).1 :: chainBlocks mode dir enc dec (chainBlock mode dir enc dec fb x).2 rest

/-- One BLOCK on an open stream: the mode's block out and new feedback value, and the stream goes on. -/
theorem exec_block_chain (s : State) (x : Block) (isOpen : s.ready = true) :
    ∃ t, exec (.block 16) { s with din := x } = .next t ∧
      chainBlock s.mode s.dir s.encipher s.decipher s.fb x = (t.dout, t.fb) ∧
      t.mode = s.mode ∧ t.dir = s.dir ∧ t.encipher = s.encipher ∧ t.decipher = s.decipher ∧ t.ready = s.ready := by
  have block := exec_block_open (s := { s with din := x }) (n := 16) rfl isOpen
  rw [complete_block] at block
  exact ⟨_, block, rfl, rfl, rfl, rfl, rfl, rfl⟩

/-- One BLOCK per block is the mode's chain: no BLOCK reads what the one before left in DIN, DOUT or the completion
record. -/
theorem blockStream_eq_chainBlocks (s : State) (xs : List Block) (isOpen : s.ready = true) :
    blockStream s xs = chainBlocks s.mode s.dir s.encipher s.decipher s.fb xs := by
  induction xs generalizing s with
  | nil => rfl
  | cons x rest ih =>
    obtain ⟨t, block, chain, mode, dir, enc, dec, ready⟩ := exec_block_chain s x isOpen
    simp only [blockStream, block, chainBlocks, chain, ih t (ready.trans isOpen), mode, dir, enc, dec]

/-- Decryption of a block undoes its encryption, and both leave the same feedback value (42_modes.md R151 to R158). -/
theorem chainBlock_roundTrip (mode : Mode) {enc dec : Block → Block} (undo : ∀ x, dec (enc x) = x) (fb x : Block) :
    chainBlock mode false enc dec fb (chainBlock mode true enc dec fb x).1 =
      (x, (chainBlock mode true enc dec fb x).2) := by
  cases mode <;> simp [chainBlock, undo]

theorem chainBlocks_roundTrip (mode : Mode) {enc dec : Block → Block} (undo : ∀ x, dec (enc x) = x) (fb : Block)
    (xs : List Block) :
    chainBlocks mode false enc dec fb (chainBlocks mode true enc dec fb xs) = xs := by
  induction xs generalizing fb with
  | nil => rfl
  | cons x rest ih => simp only [chainBlocks, chainBlock_roundTrip mode undo, ih]

/-- Settles O36: block by block, with the feedback values of the two streams in step. -/
theorem blockStreamRoundTrip : Obligations.BlockStreamRoundTrip := by
  unfold Obligations.BlockStreamRoundTrip
  intro s xs isOpen
  rw [blockStream_eq_chainBlocks { s with dir := false } _ isOpen,
    blockStream_eq_chainBlocks { s with dir := true } _ isOpen]
  exact chainBlocks_roundTrip s.mode (aesD_aesE s.w s.nr) s.fb xs

/-! OFB (42_modes.md R162 item 3) -/

theorem iterate_succ (f : Block → Block) (n : Nat) (x : Block) : iterate f (n + 1) x = iterate f n (f x) := by
  induction n with
  | zero => rfl
  | succ k ih => exact congrArg f ih

/-- OFB's feedback value is the keystream block, whatever the data and the direction. -/
theorem chainBlocks_ofb_getElem? (dir : Bool) (enc dec : Block → Block) (fb : Block) (xs : List Block) (i : Nat) :
    (chainBlocks .ofb dir enc dec fb xs)[i]? = xs[i]?.map fun x => xorBlock x (iterate enc (i + 1) fb) := by
  induction xs generalizing fb i with
  | nil => rfl
  | cons x rest ih =>
    cases i with
    | zero => rfl
    | succ i =>
      rw [iterate_succ]
      exact ih (enc fb) i

/-- Settles O39: block i of the chain. -/
theorem ofbKeystreamIsIterated : Obligations.OfbKeystreamIsIterated := by
  unfold Obligations.OfbKeystreamIsIterated
  intro s xs i x isOpen mode input
  rw [blockStream_eq_chainBlocks s xs isOpen, mode, chainBlocks_ofb_getElem?, input]
  rfl

/-! Error propagation (42_modes.md R162 items 4 and 5) -/

/-- In CBC and CFB decryption the feedback value is the block before, so each output block comes from two neighbours. -/
theorem chainBlocks_decrypt_eq_zipWith {mode : Mode} (chained : mode = .cbc ∨ mode = .cfb) (enc dec : Block → Block)
    (fb : Block) (xs : List Block) :
    chainBlocks mode false enc dec fb xs =
      List.zipWith (fun before x => (chainBlock mode false enc dec before x).1) (fb :: xs) xs := by
  induction xs generalizing fb with
  | nil => rfl
  | cons x rest ih =>
    have feedback : (chainBlock mode false enc dec fb x).2 = x := by obtain rfl | rfl := chained <;> rfl
    rw [chainBlocks, feedback, ih, List.zipWith_cons_cons]

/-- The blocks before each block are not changed at `j` by a change of block `i ≠ j - 1`. -/
theorem getElem?_cons_set (fb : Block) (xs : List Block) (x' : Block) {i j : Nat} (notNext : j ≠ i + 1) :
    (fb :: xs.set i x')[j]? = (fb :: xs)[j]? := by
  rw [← List.set_cons_succ, List.getElem?_set_ne notNext.symm]

/-- A change of block `i` leaves every output block but `i` and `i + 1` as it was. -/
theorem chainBlocks_decrypt_set {mode : Mode} (chained : mode = .cbc ∨ mode = .cfb) (enc dec : Block → Block)
    (fb : Block) (xs : List Block) (x' : Block) {i j : Nat} (other : j ≠ i) (notNext : j ≠ i + 1) :
    (chainBlocks mode false enc dec fb (xs.set i x'))[j]? = (chainBlocks mode false enc dec fb xs)[j]? := by
  rw [chainBlocks_decrypt_eq_zipWith chained, chainBlocks_decrypt_eq_zipWith chained, List.getElem?_zipWith,
    List.getElem?_zipWith, getElem?_cons_set fb xs x' notNext, List.getElem?_set_ne other.symm]

/-- Settles O41: block j of the chain comes from blocks j and j - 1. -/
theorem cbcErrorPropagation : Obligations.CbcErrorPropagation := by
  unfold Obligations.CbcErrorPropagation
  intro s xs i x' isOpen mode dir j other notNext
  rw [blockStream_eq_chainBlocks s _ isOpen, blockStream_eq_chainBlocks s _ isOpen, mode, dir]
  exact chainBlocks_decrypt_set (.inl rfl) _ _ _ _ _ other notNext

/-- The XOR of two blocks does not see a block XORed to both. -/
theorem xorBlock_xorBlock_cancel (a b k : Block) : xorBlock (xorBlock a k) (xorBlock b k) = xorBlock a b := by
  rw [xorBlock_comm b k, ← xorBlock_assoc, xorBlock_cancel]

/-- Two CFB decryptions of blocks at the same place after the same blocks use the same keystream block. -/
theorem chainBlocks_cfb_set_self {enc dec : Block → Block} {fb : Block} {xs : List Block} {i : Nat} {x x' y y' : Block}
    (input : xs[i]? = some x) (output : (chainBlocks .cfb false enc dec fb xs)[i]? = some y)
    (output' : (chainBlocks .cfb false enc dec fb (xs.set i x'))[i]? = some y') : xorBlock y y' = xorBlock x x' := by
  have input' : (xs.set i x')[i]? = some x' := by
    rw [List.getElem?_set_self']
    simp [input]
  rw [chainBlocks_decrypt_eq_zipWith (.inr rfl), List.getElem?_zipWith_eq_some] at output output'
  obtain ⟨before, _, here, at_i, rfl⟩ := output
  obtain ⟨before', _, here', at_i', rfl⟩ := output'
  rw [getElem?_cons_set fb xs x' (Nat.succ_ne_self i).symm, here] at here'
  cases here'
  cases at_i.symm.trans input
  cases at_i'.symm.trans input'
  exact xorBlock_xorBlock_cancel _ _ _

/-- Settles O40: block j of the chain comes from blocks j and j - 1, and block i only through an XOR. -/
theorem cfbErrorPropagation : Obligations.CfbErrorPropagation := by
  unfold Obligations.CfbErrorPropagation
  intro s xs i x x' y y' isOpen mode dir input output output'
  rw [blockStream_eq_chainBlocks s _ isOpen, mode, dir] at output output'
  refine ⟨chainBlocks_cfb_set_self input output output', fun j other notNext => ?_⟩
  rw [blockStream_eq_chainBlocks s _ isOpen, blockStream_eq_chainBlocks s _ isOpen, mode, dir]
  exact chainBlocks_decrypt_set (.inr rfl) _ _ _ _ _ other notNext

end Sys2Proof.Machine
end

section
/-! PROOFS. The laws of whole streams: the round trip and the direction of CTR and OFB (42_modes.md R162 items 1 and 2),
and the size queries (43_stream.md R175, R176). -/

namespace Sys2Proof.Machine

/-! The size queries -/

theorem feedStream_length {s : State} {cs : List Chunk} (isOpen : s.ready = true) (legal : ChunksLegal cs) :
    (feedStream s cs).2.length = (s.fill.val + (chunkBytes cs).length) / 16 * 16 := by
  obtain ⟨_, _, _, _, _, fed⟩ := feedStream_eq_absorb cs s isOpen legal
  rw [fed]
  exact (absorb_counts (chunkBytes cs) s).2

/-- Settles O46: the sizes are FILL and the input's length, all of it and its whole-block part. -/
theorem sizeQueriesPredictTheOutput : Obligations.SizeQueriesPredictTheOutput := by
  unfold Obligations.SizeQueriesPredictTheOutput
  intro s cs isOpen legal input
  have fed := feedStream_length isOpen legal
  have run := runStream_length isOpen legal
  rw [input] at fed run
  rw [osize_toNat, usize_toNat, Nat.add_comm s.qlen.toNat, fed, run]
  refine ⟨rfl, ?_, fun ok => ?_⟩
  · split <;> omega
  · rw [if_pos ok, Nat.div_add_mod']

/-! The direction of CTR and OFB (42_modes.md R162 item 2) -/

/-- The state with another DIR. -/
def State.withDir (s : State) (dir : Bool) : State := { s with dir := dir }

theorem chainBlock_undirected {mode : Mode} (undirected : mode = .ctr ∨ mode = .ofb) (dir dir' : Bool)
    (enc dec : Block → Block) (fb x : Block) :
    chainBlock mode dir enc dec fb x = chainBlock mode dir' enc dec fb x := by
  obtain rfl | rfl := undirected <;> rfl

theorem modeBlock_withDir {s : State} (undirected : s.mode = .ctr ∨ s.mode = .ofb) (dir : Bool) (x : Block) :
    modeBlock (s.withDir dir) x = ((modeBlock s x).1, (modeBlock s x).2.withDir dir) := by
  have chain := chainBlock_undirected undirected dir s.dir s.encipher s.decipher s.fb x
  rw [modeBlock, modeBlock, ← chain]
  rfl

theorem absorbByte_withDir {s : State} (undirected : s.mode = .ctr ∨ s.mode = .ofb) (dir : Bool) (b : Byte) :
    absorbByte (s.withDir dir, []) b = ((absorbByte (s, []) b).1.withDir dir, (absorbByte (s, []) b).2) := by
  obtain ⟨fill, e⟩ | ⟨fill, e⟩ := absorbByte_cases s [] b <;>
    obtain ⟨fill', e'⟩ | ⟨fill', e'⟩ := absorbByte_cases (s.withDir dir) [] b
  · rw [e, e']
    rfl
  · exact absurd fill' fill
  · exact absurd fill fill'
  · rw [e, e', modeBlock_withDir undirected]
    rfl

theorem absorb_withDir {s : State} (undirected : s.mode = .ctr ∨ s.mode = .ofb) (dir : Bool) (bs : List Byte) :
    absorb (s.withDir dir) bs = ((absorb s bs).1.withDir dir, (absorb s bs).2) := by
  induction bs generalizing s with
  | nil => rfl
  | cons b bs ih =>
    have mode : (absorbByte (s, []) b).1.mode = s.mode := absorb_mode s [b]
    rw [absorb_cons, absorb_cons, absorbByte_withDir undirected, ih (by rwa [mode])]

theorem exec_update_withDir {s : State} (undirected : s.mode = .ctr ∨ s.mode = .ofb) (dir : Bool) (n : BitVec 5) :
    exec (.update n) (s.withDir dir) = mapNext (fun t => t.withDir dir) (exec (.update n) s) := by
  have din : (s.withDir dir).dinBytes n = s.dinBytes n := rfl
  have ready : (s.withDir dir).ready = s.ready := rfl
  simp only [exec, execUpdate, din, ready, absorb_withDir undirected]
  repeat' split
  all_goals rfl

/-- FINAL puts out bytes by the keystream, which no direction changes. -/
theorem exec_final_withDir (s : State) (dir : Bool) :
    exec .final (s.withDir dir) = mapNext (fun t => t.withDir dir) (exec .final s) := by
  have ready : (s.withDir dir).ready = s.ready := rfl
  simp only [exec, execFinal, ready]
  split <;> rfl

theorem collect_withDir {i : Instr} {s : State} {dir : Bool}
    (same : exec i (s.withDir dir) = mapNext (fun t => t.withDir dir) (exec i s)) (out : List Byte) :
    collect i (s.withDir dir, out) = ((collect i (s, out)).1.withDir dir, (collect i (s, out)).2) := by
  obtain ⟨t, he⟩ := exec_completes i s
  rw [he] at same
  simp only [collect, he, same, mapNext_next]
  rfl

/-- One turn of a stream: the host writes DIN and issues the UPDATE (43_stream.md R177). -/
def feedChunk (r : State × List Byte) (c : Chunk) : State × List Byte :=
  collect (.update c.2) ({ r.1 with din := c.1 }, r.2)

theorem feedStream_eq_foldl (s : State) (cs : List Chunk) : feedStream s cs = cs.foldl feedChunk (s, []) := rfl

theorem feedChunk_mode (r : State × List Byte) (c : Chunk) : (feedChunk r c).1.mode = r.1.mode := by
  obtain ⟨t, he⟩ := exec_completes (.update c.2) { r.1 with din := c.1 }
  obtain ⟨zeroize, -⟩ | ⟨_, _, _, _, _, _, init, -⟩ | frame := exec_cases he
  · cases zeroize
  · cases init
  · rw [feedChunk, collect, he, frame]

theorem feedChunk_withDir {r : State × List Byte} (undirected : r.1.mode = .ctr ∨ r.1.mode = .ofb) (dir : Bool)
    (c : Chunk) : feedChunk (r.1.withDir dir, r.2) c = ((feedChunk r c).1.withDir dir, (feedChunk r c).2) :=
  collect_withDir (exec_update_withDir (s := { r.1 with din := c.1 }) undirected dir c.2) r.2

theorem foldl_feedChunk_withDir {r : State × List Byte} (undirected : r.1.mode = .ctr ∨ r.1.mode = .ofb) (dir : Bool)
    (cs : List Chunk) :
    cs.foldl feedChunk (r.1.withDir dir, r.2) =
      ((cs.foldl feedChunk r).1.withDir dir, (cs.foldl feedChunk r).2) := by
  induction cs generalizing r with
  | nil => rfl
  | cons c cs ih =>
    rw [List.foldl_cons, List.foldl_cons, feedChunk_withDir undirected, ih (by rwa [feedChunk_mode])]

/-- In CTR and OFB the direction of a stream does not change its output. -/
theorem runStream_withDir {s : State} (undirected : s.mode = .ctr ∨ s.mode = .ofb) (dir : Bool) (cs : List Chunk) :
    (runStream (s.withDir dir) cs).2 = (runStream s cs).2 := by
  have fed := foldl_feedChunk_withDir (r := (s, [])) undirected dir cs
  rw [runStream, runStream, feedStream_eq_foldl, feedStream_eq_foldl, fed, collect_withDir (exec_final_withDir _ dir)]

/-- Settles O38: the row of CTR and of OFB in the mode table does not look at DIR, and nothing else of a stream does. -/
theorem ctrAndOfbIgnoreDirection : Obligations.CtrAndOfbIgnoreDirection := by
  unfold Obligations.CtrAndOfbIgnoreDirection
  intro s cs undirected
  exact (runStream_withDir undirected true cs).trans (runStream_withDir undirected false cs).symm

/-! The output of a stream, block by block -/

/-- The output of a stream with the input bytes `bs`: its whole blocks, then what FINAL puts out. -/
def State.streamOutput (s : State) (bs : List Byte) : List Byte :=
  (absorb s bs).2 ++ (finalResult (absorb s bs).1).2

theorem runStream_eq_streamOutput {s : State} {cs : List Chunk} (isOpen : s.ready = true) (legal : ChunksLegal cs) :
    (runStream s cs).2 = s.streamOutput (chunkBytes cs) := by
  obtain ⟨_, run⟩ := runStream_eq_collect_absorb isOpen legal
  rw [run, collect_final ((absorb_ready s _).trans isOpen)]
  rfl

theorem putBytes_block (a x : Block) : putBytes a 0 x.toList = x := by
  ext j hj : 1
  simp [putBytes_getElem, hj]

/-- The state with an empty accumulator and another feedback value, in which a stream goes on after a whole block. -/
def State.resumedWith (s : State) (fb : Block) : State := { s with fb := fb, acc := zeroBlock, fill := 0 }

/-- A whole block is put out at once, and the stream goes on from the new feedback value. -/
theorem streamOutput_block {s : State} (empty : s.fill.val = 0) (x : Block) (rest : List Byte) :
    s.streamOutput (x.toList ++ rest) = (modeBlock s x).1.toList ++ 
      (s.resumedWith (modeBlock s x).2.fb).streamOutput rest := by
  have block := absorb_block s x.toList (by simp [empty])
  rw [empty, putBytes_block] at block
  rw [State.streamOutput, absorb_append, block, List.append_assoc]
  rfl

/-- Less than a block is FINAL's to put out. -/
theorem streamOutput_short {s : State} {bs : List Byte} (empty : s.fill.val = 0) (short : bs.length < 16) :
    s.streamOutput bs =
      (finalResult { s with acc := putBytes s.acc 0 bs, fill := Fin.ofNat 16 bs.length }).2 := by
  rw [State.streamOutput, absorb_short s bs (by omega), empty, Nat.zero_add, List.nil_append]

theorem streamOutput_nil {s : State} (empty : s.fill.val = 0) : s.streamOutput [] = [] := by
  rw [State.streamOutput, absorb_nil, finalResult_of_empty empty, List.append_nil]

/-- Less than a block, where the mode allows it, is XORed with the keystream block. -/
theorem streamOutput_partial {s : State} {bs : List Byte} (empty : s.fill.val = 0) (short : bs.length < 16)
    (mode : needsWholeBlocks s.mode = false) :
    s.streamOutput bs = List.zipWith (· ^^^ ·) bs s.keystream.toList := by
  by_cases nothing : bs = []
  · rw [nothing, streamOutput_nil empty, List.zipWith_nil_left]
  · have fill : (Fin.ofNat 16 bs.length).val = bs.length := Nat.mod_eq_of_lt short
    have buffered : (Fin.ofNat 16 bs.length).val ≠ 0 := by rwa [fill, Ne, List.length_eq_zero_iff]
    have flushed := finalResult_of_streamMode
      (s := { s with acc := putBytes s.acc 0 bs, fill := Fin.ofNat 16 bs.length }) buffered mode
    rw [streamOutput_short empty short, flushed, fill]
    refine List.ext_getElem (by simp) fun j hj hj' => ?_
    have inBlock : j < 16 := by simp at hj; omega
    have inInput : j < bs.length := by simp at hj; omega
    simp [putBytes_getElem, inInput]
    rfl

/-! The round trip (42_modes.md R162 item 1) -/

/-- A sequence of bytes is whole blocks and then less than one. -/
theorem byteList_block_induction {P : List Byte → Prop} (short : ∀ bs, bs.length < 16 → P bs)
    (block : ∀ (x : Block) (rest : List Byte), P rest → P (x.toList ++ rest)) (bs : List Byte) : P bs := by
  by_cases few : bs.length < 16
  · exact short bs few
  · have rest := byteList_block_induction short block (bs.drop 16)
    have first := block ⟨(bs.take 16).toArray, by simp; omega⟩ _ rest
    simpa using first
termination_by bs.length
decreasing_by simp; omega

/-- Decrypting a block in the state that encrypted it gives it back, and leaves the same feedback value. -/
theorem modeBlock_roundTrip (s : State) (x : Block) :
    (modeBlock (s.withDir false) (modeBlock (s.withDir true) x).1).1 = x ∧
    (modeBlock (s.withDir false) (modeBlock (s.withDir true) x).1).2.fb = (modeBlock (s.withDir true) x).2.fb := by
  have chain := chainBlock_roundTrip s.mode (aesD_aesE s.w s.nr) s.fb x
  exact Prod.ext_iff.mp chain

theorem xorBytes_cancel {bs ks : List Byte} (length : bs.length ≤ ks.length) :
    List.zipWith (· ^^^ ·) (List.zipWith (· ^^^ ·) bs ks) ks = bs := by
  refine List.ext_getElem (by simp; omega) fun j hj hj' => ?_
  simp

/-- The decrypt stream of an encrypt stream's output. -/
theorem streamOutput_roundTrip (bs : List Byte) (s : State) (empty : s.fill.val = 0)
    (whole : needsWholeBlocks s.mode = true → bs.length % 16 = 0) :
    (s.withDir false).streamOutput ((s.withDir true).streamOutput bs) = bs := by
  induction bs using byteList_block_induction generalizing s with
  | short bs few =>
    cases mode : needsWholeBlocks s.mode with
    | true =>
      obtain rfl : bs = [] := List.eq_nil_of_length_eq_zero (by have := whole mode; omega)
      rw [streamOutput_nil (s := s.withDir true) empty, streamOutput_nil (s := s.withDir false) empty]
    | false =>
      rw [streamOutput_partial (s := s.withDir true) empty few mode,
        streamOutput_partial (s := s.withDir false) empty (by simp; omega) mode]
      exact xorBytes_cancel (by simp; omega)
  | block x rest ih =>
    obtain ⟨block, fb⟩ := modeBlock_roundTrip s x
    have restWhole : needsWholeBlocks s.mode = true → rest.length % 16 = 0 := fun mode => by simpa using whole mode
    have tail := ih (s.resumedWith (modeBlock (s.withDir true) x).2.fb) rfl restWhole
    rw [streamOutput_block (s := s.withDir true) empty, streamOutput_block (s := s.withDir false) empty, block, fb]
    exact congrArg (x.toList ++ ·) tail

/-- The two streams on an open state, cut as they may be. -/
theorem runStream_roundTrip {s : State} {cs ds : List Chunk} (isOpen : s.ready = true) (empty : s.fill.val = 0)
    (legal : ChunksLegal cs) (legal' : ChunksLegal ds)
    (whole : needsWholeBlocks s.mode = true → (chunkBytes cs).length % 16 = 0)
    (fed : chunkBytes ds = (runStream (s.withDir true) cs).2) :
    (runStream (s.withDir false) ds).2 = chunkBytes cs := by
  rw [runStream_eq_streamOutput (s := s.withDir false) isOpen legal', fed,
    runStream_eq_streamOutput (s := s.withDir true) isOpen legal]
  exact streamOutput_roundTrip _ s empty whole

theorem initStream_eq_runStream {s : State} {mode : Mode} (dir : Bool) {lk li : Bool} {klen : BitVec 6}
    {ivlen : BitVec 5} (cs : List Chunk) (passed : initError s mode lk li klen ivlen = none) :
    initStream mode dir lk li klen ivlen s cs = (runStream (s.initialised mode dir lk li klen) cs).2 := by
  rw [initStream, collect, exec_init_passed dir passed]

/-- Settles O37: on bytes, block by block; a successful INIT opens streams that differ in DIR only. -/
theorem streamRoundTrip : Obligations.StreamRoundTrip := by
  unfold Obligations.StreamRoundTrip
  refine ⟨fun s cs ds isOpen empty legal legal' whole fed => runStream_roundTrip isOpen empty legal legal' whole fed,
    fun s mode lk li klen ivlen cs ds passed legal legal' whole fed => ?_⟩
  rw [initStream_eq_runStream true cs passed] at fed
  rw [initStream_eq_runStream false ds passed]
  exact runStream_roundTrip (s := s.initialised mode true lk li klen) rfl rfl legal legal' whole fed

end Sys2Proof.Machine
end
